-- ==== Sys2Proof/Word.lean ====
section
/-! DEFINITION. The data types of the block: the byte, the code and the single bit (R17), the packed
word (R31), the block offset (R1, D5), and the triple of access bytes the block is shown (R10). -/

namespace Sys2Proof

/-- An access byte: an unsigned 8-bit integer (R10). -/
abbrev Byte := BitVec 8

/-- An access-condition code, `control` or `inverse`: an unsigned 3-bit integer (R32, R33). -/
abbrev Code := BitVec 3

/-- One bit position of one copy, for all four offsets: half a byte, offset `k` at bit `k` (R30). -/
abbrev Nibble := BitVec 4

/-- The packed input word `W` (R31). -/
abbrev Word24 := BitVec 24

/-- A block offset. Four values and no others, so that no lane beyond 3 can be written
(R37, 92_eei_decisions.md D5, 93_implementation_defined.md U1). -/
abbrev Offset := Fin 4

/-- The three access bytes taken together, in the source's order (R10, R22). -/
structure Triple where
  /-- `access_byte_0` -/
  b0 : Byte
  /-- `access_byte_1` -/
  b1 : Byte
  /-- `access_byte_2` -/
  b2 : Byte
  deriving DecidableEq, Repr

end Sys2Proof
end

