-- ==== Sys2Proof/Config.lean ====
section
/-! DEFINITION. What an implementation fixes. The block has no free functional parameter (R3): every
size is fixed by the spec. The one open parameter, the propagation delay `T_PD` (D9, U4), is used by
no functional rule and an untimed model does not take it as an argument, so it is not here. No value
within the block's domain is left open, so there is no free value either. -/

namespace Sys2Proof.Config

/-- Bits of an access byte, `BYTE_W` (R3). -/
def byteBits : Nat := 8

/-- Number of access bytes, `N_BYTES` (R3). -/
def byteCount : Nat := 3

/-- Bits of the packed input word: always exactly 24 (30_encoding.md section 5, E5). -/
def wordBits : Nat := byteBits * byteCount

end Sys2Proof.Config
end

