-- ==== Sys2Proof/Syntax.lean ====
section
/-! DEFINITION. The five named operations of the block, one constructor per row of
spec/opcode_table.json (R36). An operation's operand is the triple it is applied to, as in the spec's
textual form `ABD.LANEk B0 B1 B2` (R38). -/

namespace Sys2Proof

/-- The operations of the block (R36). Which lane is meant is in the name, not in an operand: the
block has no offset input (R12). -/
inductive Instr where
  /-- `ABD.LANE0`: the pair of block offset 0 (R41). -/
  | lane0 (t : Triple)
  /-- `ABD.LANE1`: the pair of block offset 1 (R42). -/
  | lane1 (t : Triple)
  /-- `ABD.LANE2`: the pair of block offset 2 (R43). -/
  | lane2 (t : Triple)
  /-- `ABD.LANE3`: the pair of block offset 3 (R44). -/
  | lane3 (t : Triple)
  /-- `ABD.DECODE`: the four lanes together (R45). -/
  | decode (t : Triple)
  deriving DecidableEq, Repr

end Sys2Proof
end

