-- ==== Sys2Proof/WellFormed.lean ====
section
/-! DEFINITION. Which instructions, and which raw words, are well formed. -/

namespace Sys2Proof

/-- Every instruction term is well formed: no input pattern is illegal, reserved or a hint (R37), and
the types already hold the only bounds there are (8-bit bytes, four lanes). -/
def Instr.wellFormed (i : Instr) : Bool :=
  match i with
  | .lane0 _ => true
  | .lane1 _ => true
  | .lane2 _ => true
  | .lane3 _ => true
  | .decode _ => true

/-- A raw number `w` of `nbits` bits names a word of the block: it has its `nbits` bits, and no more than
the 24 the input always has (30_encoding.md section 5, E5). Bits above `nbits` are then zero. -/
def rawWordWellFormed (nbits w : Nat) : Bool :=
  decide (nbits ≤ Config.wordBits) && decide (w < 2 ^ nbits)

end Sys2Proof
end

