-- ==== Sys2Proof/Decode.lean ====
section
/-! DEFINITION. The format TRIPLE24 (R30, R31), the opcode table, the decoder and, after it, the encoder.

The format has no opcode field: every 24-bit word matches every row (R36). A word can therefore be READ
AS any of the five operations (`decodeAs`), and what the block does with a word, by itself, is the
whole-block operation `ABD.DECODE` (R11, R45): that is what `decodeWord` answers. See log entry 4. -/

namespace Sys2Proof

/-- The rows of spec/opcode_table.json. -/
inductive Row where
  | lane0
  | lane1
  | lane2
  | lane3
  | decode
  deriving DecidableEq, Repr

/-- One row of the table: `mask` and `pattern` (the table's `match`) say which words match, `reads` which
bits of `W` the operation reads (the letters of the row's `encoding` string other than `n`). -/
structure TableRow where
  row : Row
  mask : Word24
  pattern : Word24
  reads : Word24
  deriving DecidableEq, Repr

/-- spec/opcode_table.json (R36): `nnnznnnynnnxnnnrnnnqnnnp`, `nnznnnynnnxnnnrnnnqnnnpn`,
`nznnnynnnxnnnrnnnqnnnpnn`, `znnnynnnxnnnrnnnqnnnpnnn`, `zzzzyyyyxxxxrrrrqqqqpppp`. -/
def opcodeTable : List TableRow :=
  [ ⟨.lane0, 0x000000#24, 0x000000#24, 0b000100010001000100010001#24⟩,
    ⟨.lane1, 0x000000#24, 0x000000#24, 0b001000100010001000100010#24⟩,
    ⟨.lane2, 0x000000#24, 0x000000#24, 0b010001000100010001000100#24⟩,
    ⟨.lane3, 0x000000#24, 0x000000#24, 0b100010001000100010001000#24⟩,
    ⟨.decode, 0x000000#24, 0x000000#24, 0b111111111111111111111111#24⟩ ]

/-- The table's mnemonic of a row (R36, D15). -/
def Row.mnemonic : Row → String
  | .lane0 => "ABD.LANE0"
  | .lane1 => "ABD.LANE1"
  | .lane2 => "ABD.LANE2"
  | .lane3 => "ABD.LANE3"
  | .decode => "ABD.DECODE"

/-- The bits of `W` that a row's operation reads, as the table gives them. -/
def Row.reads (r : Row) : Word24 :=
  match opcodeTable.find? (fun e => e.row == r) with
  | some e => e.reads
  | none => 0

/-- The rows a word matches: `w & mask = match`. -/
def matchingRows (w : Word24) : List Row :=
  (opcodeTable.filter fun e => w &&& e.mask == e.pattern).map (·.row)

/-- The packed word of a triple: `W = b2 ‖ b1 ‖ b0` (R31). -/
def pack (t : Triple) : Word24 := t.b2 ++ t.b1 ++ t.b0

/-- The triple of a packed word: `b0 = W[7:0]`, `b1 = W[15:8]`, `b2 = W[23:16]` (R31). -/
def unpack (w : Word24) : Triple :=
  ⟨w.extractLsb' 0 8, w.extractLsb' 8 8, w.extractLsb' 16 8⟩

/-- A word read as a given row's operation. -/
def decodeAs (r : Row) (w : Word24) : Instr :=
  match r with
  | .lane0 => .lane0 (unpack w)
  | .lane1 => .lane1 (unpack w)
  | .lane2 => .lane2 (unpack w)
  | .lane3 => .lane3 (unpack w)
  | .decode => .decode (unpack w)

/-- What the block does with a word: no bit of it selects among the operations, "all five are computed at
once, all the time" (R36), so it is the four lanes together (R11, R45). DEDUCED, log entry 4. -/
def decodeWord (w : Word24) : Instr := decodeAs .decode w

/-- Why a byte string is no input of the block: the input is always exactly three bytes (E5, log entry 8). -/
inductive DecodeError where
  /-- fewer than three bytes -/
  | tooFewBytes
  /-- more than three bytes -/
  | tooManyBytes
  deriving DecidableEq, Repr

/-- The decoder on any bytes, in dump order (R22). -/
def decodeBytes (bytes : List Byte) : Except DecodeError Instr :=
  match bytes with
  | [] => .error .tooFewBytes
  | [_] => .error .tooFewBytes
  | [_, _] => .error .tooFewBytes
  | [x, y, z] => .ok (decodeWord (pack ⟨x, y, z⟩))
  | _ :: _ :: _ :: _ :: _ => .error .tooManyBytes

/-- The three bytes of a raw word, the first byte lowest (R31), as the host's table numbers its bits. -/
def rawBytes (w : Nat) : List Byte :=
  [BitVec.ofNat 8 w, BitVec.ofNat 8 (w / 2 ^ 8), BitVec.ofNat 8 (w / 2 ^ 16)]

/-- The instruction the decoder reads from a word numbered as spec/opcode_table.json numbers it. -/
def decodeTableWord (nbits w : Nat) : Option Instr :=
  if rawWordWellFormed nbits w then
    match decodeBytes (rawBytes w) with
    | .ok i => some i
    | .error _ => none
  else none

/-- The row an instruction stands for. -/
def Instr.row : Instr → Row
  | .lane0 _ => .lane0
  | .lane1 _ => .lane1
  | .lane2 _ => .lane2
  | .lane3 _ => .lane3
  | .decode _ => .decode

/-- The triple an instruction is applied to. -/
def Instr.triple : Instr → Triple
  | .lane0 t => t
  | .lane1 t => t
  | .lane2 t => t
  | .lane3 t => t
  | .decode t => t

/-- `ABD.LANE(k)` applied to a triple (R40). -/
def laneInstr (k : Offset) (t : Triple) : Instr :=
  match k with
  | 0 => .lane0 t
  | 1 => .lane1 t
  | 2 => .lane2 t
  | 3 => .lane3 t

/-- The encoder: the packed word of the operation's triple. The bits an operation does not read (`n` in the
table) are kept as the triple has them. -/
def encode (i : Instr) : Word24 := pack i.triple

/-- The encoder's word as bytes, in dump order (R22). -/
def encodeBytes (i : Instr) : List Byte := [i.triple.b0, i.triple.b1, i.triple.b2]

end Sys2Proof
end

