-- ==== Sys2Proof/Machine/Operands.lean ====
section
/-! DEFINITION. How the two stored copies of a code are read out of a triple (R30, R32, R33, R40). -/

namespace Sys2Proof.Machine

/-- The source's bit test, `(v >> p) & 1`, an integer 0 or 1, for `p` from 0 to 7 (R4). -/
def T (v : Byte) (p : Fin 8) : Byte := (v >>> p.val) &&& 1#8

/-- Bit position `k` of a byte. -/
def lowBit (k : Offset) : Fin 8 := ⟨k.val, by omega⟩

/-- Bit position `k + 4` of a byte: at most 7 (R40, corner cases). -/
def highBit (k : Offset) : Fin 8 := ⟨k.val + 4, by omega⟩

/-- Three tested bits as a 3-bit value, most significant first: `hi << 2 | mid << 1 | lo << 0` (R40). Nothing is
shifted out (R47). -/
def assemble (hi mid lo : Byte) : Code := ((hi <<< 2) ||| (mid <<< 1) ||| (lo <<< 0)).setWidth 3

/-- The direct copy of the code of offset `k` (R32, R40). -/
def control (k : Offset) (t : Triple) : Code :=
  assemble (T t.b1 (highBit k)) (T t.b2 (lowBit k)) (T t.b2 (highBit k))

/-- The inverted copy of the code of offset `k`, as stored, not yet complemented (R33, R40). An internal wire. -/
def inverse (k : Offset) (t : Triple) : Code :=
  assemble (T t.b0 (lowBit k)) (T t.b0 (highBit k)) (T t.b1 (lowBit k))

/-- The lane that bit `W[n]` belongs to: `n mod 4` (R53). -/
def bitLane (n : Fin 24) : Offset := ⟨n.val % 4, by omega⟩

end Sys2Proof.Machine
end

