-- ==== Sys2Proof/Machine/State.lean ====
section
/-! DEFINITION. The state. The block itself has none: no register, program counter, flag, control register, memory or
hidden state (R13 to R18, R20), so a model's state type is the unit type (R18). The host's step is a function of
State alone, so State holds the one thing a step needs beside it: the triple the environment shows on the three
input ports (log entry 1). The eight outputs are wires, a function of the inputs at every instant (R11): they
are computed from the inputs in Machine/Ops.lean and stored nowhere. -/

namespace Sys2Proof.Machine

/-- What the environment shows on the input ports. -/
structure State where
  /-- input port `b0` (R10) -/
  b0 : Byte
  /-- input port `b1` (R10) -/
  b1 : Byte
  /-- input port `b2` (R10) -/
  b2 : Byte
  deriving DecidableEq, Repr

/-- What one lane delivers: the pair `(control_k, valid_k)` (R40), `valid` 1 for true (D14). -/
structure LaneResult where
  control : Code
  valid : Bool
  deriving DecidableEq, Repr

/-- What the block delivers: exactly four entries, in offset order (R45). -/
structure Outputs where
  lane0 : LaneResult
  lane1 : LaneResult
  lane2 : LaneResult
  lane3 : LaneResult
  deriving DecidableEq, Repr

/-- Why a step stops with a fault: never. The block raises no exception, fault, trap or error for any input
(R60), so the type is empty. -/
inductive Fault where
  deriving DecidableEq, Repr

/-- Why a step is refused. The block never refuses an input (R37). -/
inductive Refusal where
  /-- An instruction without a meaning, by its mnemonic. The constructor is the host interface's. Raised by an
  arm of `exec` that has no meaning yet: there is none, so nothing raises it. Safe. -/
  | notModelled (mnemonic : String)
  deriving DecidableEq, Repr

/-- The model's first state. The spec gives no reset value and no reset (R19, R70). DESIGN CHOICE, log entry 2: the
inputs show `00 00 00`. The outputs have no reset value: they follow the inputs (R19). -/
def State.reset : State where
  b0 := 0x00#8
  b1 := 0x00#8
  b2 := 0x00#8

end Sys2Proof.Machine
end

