-- ==== Sys2Proof/Machine/Flags.lean ====
section
/-! DEFINITION. The validity formula (R46) and the pair a lane delivers (R40). The `valid` outputs are the only
flag-like values of the block, and they are results, not stored flags (R15). -/

namespace Sys2Proof.Machine

/-- The mask of the validity formula (R3, R46). -/
def mask : Byte := 0x07#8

/-- Bitwise complement within 8 bits (00_scope.md section 5). -/
def NOT8 (v : Byte) : Byte := ~~~ v

/-- Zero extension of a code to 8 bits (R46, R58). -/
def zext8 (c : Code) : Byte := c.setWidth 8

/-- `control == (0x07 & NOT8(inverse))`: complement first, mask second, compare third; the mask applies to the
complemented inverse only (R6, R46). -/
def validFormula (control inverse : Code) : Bool := zext8 control == (mask &&& NOT8 (zext8 inverse))

/-- The validity of the code of offset `k` (R46). -/
def valid (k : Offset) (t : Triple) : Bool := validFormula (control k t) (inverse k t)

/-- `ABD.LANE(k)`: the pair of offset `k`. `control` is delivered as read, whatever `valid` is (R40, R49). -/
def lane (k : Offset) (t : Triple) : LaneResult := ⟨control k t, valid k t⟩

/-- `ABD.DECODE`: the four pairs of one triple, in offset order; the four do not depend on one another (R45). -/
def block (t : Triple) : Outputs := ⟨lane 0 t, lane 1 t, lane 2 t, lane 3 t⟩

end Sys2Proof.Machine
end

