-- ==== Sys2Proof/Machine/Ops.lean ====
section
/-! DEFINITION. The named operations over the ports. The block has no memory (R20), so there is no memory
operation, and no exception, trap entry or trap return (R60, R65), so there is none of these either. -/

namespace Sys2Proof.Machine

/-- The pair of one offset, out of the four. -/
def Outputs.get (o : Outputs) (k : Offset) : LaneResult :=
  match k with
  | 0 => o.lane0
  | 1 => o.lane1
  | 2 => o.lane2
  | 3 => o.lane3

/-- The triple on the input ports: the three are read together (R10, R24). -/
def State.inputs (s : State) : Triple := ⟨s.b0, s.b1, s.b2⟩

/-- The input ports under their second name, the packed word `W` (R31). -/
def State.fetchWord (s : State) : Word24 := pack s.inputs

/-- The pair on the output ports of offset `k`: at every instant what the lane computes from the present inputs
(R11, R40). Nothing is held: an output changes with the inputs and with nothing else (R15, R18, R19). -/
def State.out (s : State) (k : Offset) : LaneResult := lane k s.inputs

/-- The four pairs on the output ports, in offset order: `ABD.DECODE` of the present inputs (R11, R45). -/
def State.outputs (s : State) : Outputs := block s.inputs

/-- output port `control0` (R11) -/
def State.control0 (s : State) : Code := (s.out 0).control

/-- output port `valid0` (R11) -/
def State.valid0 (s : State) : Bool := (s.out 0).valid

/-- output port `control1` (R11) -/
def State.control1 (s : State) : Code := (s.out 1).control

/-- output port `valid1` (R11) -/
def State.valid1 (s : State) : Bool := (s.out 1).valid

/-- output port `control2` (R11) -/
def State.control2 (s : State) : Code := (s.out 2).control

/-- output port `valid2` (R11) -/
def State.valid2 (s : State) : Bool := (s.out 2).valid

/-- output port `control3` (R11) -/
def State.control3 (s : State) : Code := (s.out 3).control

/-- output port `valid3` (R11) -/
def State.valid3 (s : State) : Bool := (s.out 3).valid

/-- The pairs a row's operation delivers, out of the four: the `out` operands of the opcode table (R36). -/
def Outputs.ofRow (o : Outputs) (r : Row) : List LaneResult :=
  match r with
  | .lane0 => [o.lane0]
  | .lane1 => [o.lane1]
  | .lane2 => [o.lane2]
  | .lane3 => [o.lane3]
  | .decode => [o.lane0, o.lane1, o.lane2, o.lane3]

/-- The packed output `CTRL = control3 ‖ control2 ‖ control1 ‖ control0` (R35). -/
def Outputs.CTRL (o : Outputs) : BitVec 12 :=
  o.lane3.control ++ o.lane2.control ++ o.lane1.control ++ o.lane0.control

/-- Four bits as a nibble, offset 0 in bit 0. -/
def nibbleOf (n0 n1 n2 n3 : Bool) : Nibble :=
  BitVec.ofBool n3 ++ BitVec.ofBool n2 ++ BitVec.ofBool n1 ++ BitVec.ofBool n0

/-- The packed output `VALID = valid3 ‖ valid2 ‖ valid1 ‖ valid0` (R35). -/
def Outputs.VALID (o : Outputs) : Nibble :=
  nibbleOf o.lane0.valid o.lane1.valid o.lane2.valid o.lane3.valid

/-- One thing the environment can do to the input ports: replace one byte, or all three at once (R73). -/
inductive Drive where
  | b0 (v : Byte)
  | b1 (v : Byte)
  | b2 (v : Byte)
  | triple (t : Triple)
  deriving DecidableEq, Repr

/-- The triple on the ports after a drive. -/
def Drive.apply (d : Drive) (t : Triple) : Triple :=
  match d with
  | .b0 v => { t with b0 := v }
  | .b1 v => { t with b1 := v }
  | .b2 v => { t with b2 := v }
  | .triple u => u

/-- The input ports show a triple, whatever they showed before (R72). The outputs follow at once (R11). -/
def State.present (_ : State) (t : Triple) : State := ⟨t.b0, t.b1, t.b2⟩

/-- The environment drives the input ports. -/
def State.drive (s : State) (d : Drive) : State := s.present (d.apply s.inputs)

/-- Where the environment finds the triple in a sector chunk: bytes 38, 39 and 40, counted from 0 (R7). A chunk
that ends before byte 40 gives none (log entry 7). -/
def chunkTriple (chunk : List Byte) : Option Triple :=
  match chunk[38]?, chunk[39]?, chunk[40]? with
  | some x, some y, some z => some ⟨x, y, z⟩
  | _, _, _ => none

end Sys2Proof.Machine
end

