-- ==== Sys2Proof/Machine/AccessDecode.lean ====
section
/-! DEFINITION. The meanings of the five operations (R40 to R45). An operation's operands are the input ports (R40,
R58), so an operation applied to a triple is the block with that triple on its input ports; its results are then
on its output ports, which are wires (`State.out`, R11). "All five are computed at once, all the time" (R36): the
operations differ in which output ports are theirs (`Outputs.ofRow`), not in what is on the wires. None
raises anything, for any input (R60). -/

namespace Sys2Proof.Machine

/-- `ABD.LANE0`: the pair of offset 0 of the triple is then on `control0` and `valid0` (R41). -/
def execLane0 (t : Triple) (s : State) : Host.Outcome State Fault Refusal :=
  .next (s.present t)

/-- `ABD.LANE1`: the pair of offset 1 of the triple is then on `control1` and `valid1` (R42). -/
def execLane1 (t : Triple) (s : State) : Host.Outcome State Fault Refusal :=
  .next (s.present t)

/-- `ABD.LANE2`: the pair of offset 2 of the triple is then on `control2` and `valid2` (R43). -/
def execLane2 (t : Triple) (s : State) : Host.Outcome State Fault Refusal :=
  .next (s.present t)

/-- `ABD.LANE3`: the pair of offset 3 of the triple is then on `control3` and `valid3` (R44). -/
def execLane3 (t : Triple) (s : State) : Host.Outcome State Fault Refusal :=
  .next (s.present t)

/-- `ABD.DECODE`: the four pairs of the triple are then on the eight output ports (R45). -/
def execDecode (t : Triple) (s : State) : Host.Outcome State Fault Refusal :=
  .next (s.present t)

end Sys2Proof.Machine
end

