-- ==== Sys2Proof/Machine/Dispatch.lean ====
section
/-! DEFINITION. One arm per operation (R36). -/

namespace Sys2Proof.Machine

def exec (i : Instr) (s : State) : Host.Outcome State Fault Refusal :=
  match i with
  | .lane0 t => Sys2Proof.Machine.execLane0 t s
  | .lane1 t => Sys2Proof.Machine.execLane1 t s
  | .lane2 t => Sys2Proof.Machine.execLane2 t s
  | .lane3 t => Sys2Proof.Machine.execLane3 t s
  | .decode t => Sys2Proof.Machine.execDecode t s

end Sys2Proof.Machine
end

