-- ==== Sys2Proof/Machine/Step.lean ====
section
/-! DEFINITION. One step: the block evaluates `ABD.DECODE` on the triple its input ports show (R11, D17; log entry 3).
There is no program counter and nothing to fetch (R14): the word a step takes is the input word `W` itself (R31).
The outputs are those of the inputs before the step as after it. -/

namespace Sys2Proof.Machine

/-- One evaluation of the present inputs: D17's step, "the (unit) state unchanged". -/
def step (s : State) : Host.Outcome State Fault Refusal :=
  exec (decodeWord s.fetchWord) s

/-- The triple of a raw word of `nbits` bits put on the input ports: what stands for loading an instruction on a
block that takes its word from its ports (log entry 4). Bits above `nbits` are zero. -/
def State.withFetchWord (s : State) (nbits w : Nat) : State :=
  s.present (unpack (BitVec.ofNat 24 (w % 2 ^ nbits)))

end Sys2Proof.Machine
end

