-- ==== Sys2Proof/Machine/Reference.lean ====
section
/-! DEFINITION. Not part of the block: the reference encoder and the well-formed triples, which exist to state and
test the block's rules (R55, R56). -/

namespace Sys2Proof.Machine

/-- The nibble `P_i`: bit `i` of each of the four codes, offset `k` at bit `k` (R56). -/
def codeNibble (i : Nat) (c0 c1 c2 c3 : Code) : Nibble :=
  nibbleOf (c0.getLsbD i) (c1.getLsbD i) (c2.getLsbD i) (c3.getLsbD i)

/-- `NOT4(v) = v ^ 0xF` (R56). -/
def NOT4 (v : Nibble) : Nibble := v ^^^ 0xF#4

/-- `ENC`: the triple that stores each code consistently at its offset (R56). -/
def ENC (c0 c1 c2 c3 : Code) : Triple where
  b0 := NOT4 (codeNibble 1 c0 c1 c2 c3) ++ NOT4 (codeNibble 2 c0 c1 c2 c3)
  b1 := codeNibble 2 c0 c1 c2 c3 ++ NOT4 (codeNibble 0 c0 c1 c2 c3)
  b2 := codeNibble 0 c0 c1 c2 c3 ++ codeNibble 1 c0 c1 c2 c3

/-- A triple is well formed when all four `valid` outputs are 1 (R55). -/
def tripleWellFormed (t : Triple) : Bool := (block t).VALID == 0xF#4

end Sys2Proof.Machine
end

