-- ==== Sys2Proof/Machine/Sequence.lean ====
section
/-! DEFINITION. What stands in a program's place: a sequence of changes of the inputs, each held for a
step, with the outputs read each time (95_test_vectors.md section 3; R73). -/

namespace Sys2Proof.Machine

/-- The outputs read after each drive and one step. A step never stops (R60), so the answer is never none. -/
def trace : List Drive → State → Option (List Outputs)
  | [], _ => some []
  | d :: ds, s =>
    match step (s.drive d) with
    | .next u => (trace ds u).map (u.outputs :: ·)
    | .fault _ => none
    | .refused _ => none

/-- The triples on the input ports after each drive of a sequence. -/
def inputsAfter : List Drive → Triple → List Triple
  | [], _ => []
  | d :: ds, t => d.apply t :: inputsAfter ds (d.apply t)

end Sys2Proof.Machine
end

