-- ==== Sys2Proof/Machine/Text.lean ====
section
/-! DEFINITION. The spec's textual form of an operation and its result (R38). There is no assembler. -/

namespace Sys2Proof.Machine

/-- An uppercase hexadecimal digit. -/
def hexDigit (n : Nibble) : String :=
  ["0", "1", "2", "3", "4", "5", "6", "7", "8", "9", "A", "B", "C", "D", "E", "F"].getD n.toNat ""

/-- A byte as two uppercase hexadecimal digits. -/
def hexByte (v : Byte) : String := hexDigit (v.extractLsb' 4 4) ++ hexDigit (v.extractLsb' 0 4)

/-- One bit as `0` or `1`. -/
def bitText (b : Bool) : String := if b then "1" else "0"

/-- `ccc/v`: `control` as three binary digits, bit 2 first, then `valid`. -/
def laneText (r : LaneResult) : String :=
  bitText (r.control.getLsbD 2) ++ bitText (r.control.getLsbD 1) ++ bitText (r.control.getLsbD 0)
    ++ "/" ++ bitText r.valid

/-- `ABD.LANEk B0 B1 B2` or `ABD.DECODE B0 B1 B2`: the bytes in dump order. -/
def instrText (i : Instr) : String :=
  i.row.mnemonic ++ " " ++ hexByte i.triple.b0 ++ " " ++ hexByte i.triple.b1 ++ " " ++ hexByte i.triple.b2

/-- The result part: one pair for a lane, the four in offset order for the block. -/
def resultText (r : Row) (o : Outputs) : String := " ".intercalate ((o.ofRow r).map laneText)

/-- An operation with the result its execution leaves on its output ports. -/
def opText (i : Instr) (s : State) : Option String :=
  match exec i s with
  | .next u => some (instrText i ++ " -> " ++ resultText i.row u.outputs)
  | .fault _ => none
  | .refused _ => none

end Sys2Proof.Machine
end

