-- ==== Sys2Proof/Safety.lean ====
section
/-! DEFINITION. What it is for the outputs to be right for the inputs, and what counts as a safe run. -/

namespace Sys2Proof

/-- The output ports carry what the source's formulas give for the bytes now on the input ports, in numbers: the
direct copy as `control`, and `valid` exactly when the two bits of each redundancy pair add up to 1
(R11, R32, R34). Written without the model's own lane functions. -/
abbrev Settled (s : Machine.State) : Prop :=
  ∀ k : Offset,
    (s.out k).control.toNat
      = 4 * (s.b1.toNat / 2 ^ (k.val + 4) % 2) + 2 * (s.b2.toNat / 2 ^ k.val % 2)
        + s.b2.toNat / 2 ^ (k.val + 4) % 2
    ∧ ((s.out k).valid = true ↔
        s.b1.toNat / 2 ^ (k.val + 4) % 2 + s.b0.toNat / 2 ^ k.val % 2 = 1
        ∧ s.b2.toNat / 2 ^ k.val % 2 + s.b0.toNat / 2 ^ (k.val + 4) % 2 = 1
        ∧ s.b2.toNat / 2 ^ (k.val + 4) % 2 + s.b1.toNat / 2 ^ k.val % 2 = 1)

/-- No run from the state stops, however long (R60). -/
def SafeRun (s : Machine.State) : Prop := ∀ n, ∃ u, Host.Core.run core n s = .next u

end Sys2Proof
end

