-- ==== Sys2Proof/Certificates/Slice0/Obligations.lean ====
section
/-! DEFINITION. The statements for the provers. Throughout, `exec i s = .next u` in a conclusion says that the
operation completes. A state is the triple on the input ports and nothing else (R13 to R18, R20), and the outputs
`u.out k`, `u.control0`, ... are functions of it (R11): `u.inputs = t` is therefore a whole frame. -/

open Sys2Proof Sys2Proof.Machine

/-! ### Reset and the step -/

/-- The state after reset shows `00 00 00` on the inputs, which is the model's choice (log entry 2: the spec gives no
reset value, R19), and its outputs follow these inputs as every state's do. -/
def Obligations.ResetShowsZeroInputsAndIsSettled : Prop :=
  State.reset.inputs = ⟨0x00#8, 0x00#8, 0x00#8⟩
  ∧ State.reset.outputs.CTRL = 0x000#12 ∧ State.reset.outputs.VALID = 0x0#4
  ∧ Settled State.reset

/-- At every instant the outputs are those of the present inputs: in every state, with no step needed; directly after
anything the environment does to the inputs; and after every operation. The eight ports, the pairs and the packed
views are one and the same, and depend on the inputs alone (R11, R15, R18, R19). -/
def Obligations.OutputsFollowTheInputsAtEveryInstant : Prop :=
  (∀ s : State, Settled s)
  ∧ (∀ (s : State) (d : Drive), Settled (s.drive d) ∧ (s.drive d).inputs = d.apply s.inputs)
  ∧ (∀ (i : Instr) (s : State), ∃ u : State, exec i s = .next u ∧ Settled u)
  ∧ (∀ s : State, s.outputs = ⟨⟨s.control0, s.valid0⟩, ⟨s.control1, s.valid1⟩, ⟨s.control2, s.valid2⟩,
        ⟨s.control3, s.valid3⟩⟩
      ∧ ∀ k : Offset, s.outputs.get k = s.out k)
  ∧ ∀ s s' : State, s.inputs = s'.inputs → s = s' ∧ s.outputs = s'.outputs

/-- Nothing of an earlier triple is left on an output when the inputs change: the outputs after presenting a triple
are the same whatever was on the ports, the reset state's `00 00 00` included, before any step and after one (R18,
R19). A lane's outputs that were valid become invalid at once with a triple that is not (R15). -/
def Obligations.NoOutputOutlivesItsInputs : Prop :=
  (∀ (s : State) (t : Triple), (s.present t).outputs = (State.reset.present t).outputs
    ∧ ∃ u : State, step (s.present t) = .next u ∧ u.outputs = (State.reset.present t).outputs)
  ∧ ∀ (s : State) (t : Triple) (k : Offset), (s.out k).valid = true →
      t.b1.getLsbD (k.val + 4) = t.b0.getLsbD k.val → ((s.present t).out k).valid = false

/-- When the bytes on the input ports decode to a well-formed instruction, a step is `exec` of it: the step adds
nothing around it. That the step's instruction is the whole-block one is log entry 4. -/
def Obligations.StepRunsTheDecodedInstruction : Prop :=
  ∀ (s : State) (i : Instr),
    decodeBytes [s.b0, s.b1, s.b2] = .ok i → i.wellFormed = true →
      step s = exec i s ∧ i = .decode s.inputs

/-- A step completes with the inputs unchanged, the outputs after it are on each offset the direct copy of the code and
the agreement of the two copies on the inputs, and nothing else of the state matters (R11). -/
def Obligations.StepOutputsFollowThePresentInputs : Prop :=
  ∀ s : State, ∃ u : State, step s = .next u ∧ u.inputs = s.inputs ∧ u.outputs = s.outputs ∧
    (∀ k : Offset,
      (u.out k).control.toNat
        = 4 * (s.b1.toNat / 2 ^ (k.val + 4) % 2) + 2 * (s.b2.toNat / 2 ^ k.val % 2)
          + s.b2.toNat / 2 ^ (k.val + 4) % 2
      ∧ ((u.out k).valid = true ↔
          s.b1.toNat / 2 ^ (k.val + 4) % 2 + s.b0.toNat / 2 ^ k.val % 2 = 1
          ∧ s.b2.toNat / 2 ^ k.val % 2 + s.b0.toNat / 2 ^ (k.val + 4) % 2 = 1
          ∧ s.b2.toNat / 2 ^ (k.val + 4) % 2 + s.b1.toNat / 2 ^ k.val % 2 = 1))
    ∧ ∀ s' : State, s'.inputs = s.inputs → step s' = .next u

/-- INVARIANT. Every step keeps the outputs right for the inputs, and leaves the state as it is (R11, R18). -/
def Obligations.EveryStepKeepsThePortsSettled : Prop :=
  ∀ s u : State, Settled s → step s = .next u → Settled u ∧ u = s

/-- However many steps the inputs are held for, the run never stops, the inputs stay, and the outputs are right for
them and those of one evaluation (R18, R60). -/
def Obligations.HeldInputsSettleInOneStepForever : Prop :=
  ∀ (s : State) (n : Nat), ∃ u : State,
    Host.Core.run core (n + 1) s = .next u ∧ step s = .next u ∧ Settled u ∧ u.inputs = s.inputs
    ∧ u.outputs = s.outputs

/-- No run stops, from any state. -/
def Obligations.EveryRunIsSafe : Prop := ∀ s : State, SafeRun s

/-- No evaluation is special: the first one after reset gives what any later one gives (R71), and a reset of the
surroundings changes nothing of what the block computes (R70). -/
def Obligations.FirstEvaluationAfterResetIsNotSpecial : Prop :=
  ∀ (s : State) (t : Triple), ∃ u : State,
    step (State.reset.present t) = .next u ∧ step (s.present t) = .next u ∧ u.inputs = t
    ∧ (State.reset.present t).outputs = u.outputs

/-! ### Words, rows and bytes -/

/-- `W[7:0] = b0`, `W[15:8] = b1`, `W[23:16] = b2`, bit by bit and as a number, and `FF 07 80` is `0x8007FF` (R31). -/
def Obligations.PackedWordHoldsTheBytesFirstByteLowest : Prop :=
  (∀ (t : Triple) (p : Nat), p < 8 →
    (pack t).getLsbD p = t.b0.getLsbD p ∧ (pack t).getLsbD (8 + p) = t.b1.getLsbD p
    ∧ (pack t).getLsbD (16 + p) = t.b2.getLsbD p)
  ∧ (∀ t : Triple, (pack t).toNat = t.b0.toNat + 2 ^ 8 * t.b1.toNat + 2 ^ 16 * t.b2.toNat)
  ∧ (∀ s : State, s.fetchWord = pack ⟨s.b0, s.b1, s.b2⟩)
  ∧ pack ⟨0xFF#8, 0x07#8, 0x80#8⟩ = 0x8007FF#24

/-- DECODE AND ENCODE AGREE. For every instruction, reading its word as its own row gives it back; for every row and
every word, encoding what was read gives the word back; and through the host's numbers, the block's own
decoder gives the whole-block operation back and the machine's very next step runs exactly it. That the block's own
decoder answers the whole-block operation is log entry 4. -/
def Obligations.DecodingAndEncodingAgree : Prop :=
  (∀ i : Instr, i.wellFormed = true → decodeAs i.row (encode i) = i)
  ∧ (∀ (r : Row) (w : Word24), (decodeAs r w).row = r ∧ encode (decodeAs r w) = w)
  ∧ (∀ t : Triple, decodeTableWord 24 (encode (.decode t)).toNat = some (.decode t))
  ∧ ∀ (t : Triple) (s : State),
      step (s.withFetchWord 24 (encode (.decode t)).toNat)
        = exec (.decode t) (s.withFetchWord 24 (encode (.decode t)).toNat)
      ∧ (s.withFetchWord 24 (encode (.decode t)).toNat).inputs = t

/-- Every number below 2^24 decodes, to the whole-block operation on its three bytes, first byte lowest; a number that
does not fit the given number of bits does not decode. That a word decodes to the whole-block operation is the
model's inference from R36 (log entry 4), and what it takes for a number of bits is its convention (log entry 5). -/
def Obligations.EveryTableWordDecodesByItsBytes : Prop :=
  (∀ w : Nat, w < 2 ^ 24 → ∃ t : Triple, decodeTableWord 24 w = some (.decode t)
    ∧ t.b0.toNat = w % 256 ∧ t.b1.toNat = w / 256 % 256 ∧ t.b2.toNat = w / 65536)
  ∧ ∀ nbits w : Nat, (2 ^ nbits ≤ w ∨ 24 < nbits) → decodeTableWord nbits w = none

/-- Exactly the byte strings of length three decode; the others are rejected, each by its name (the model's
inference, log entry 8). -/
def Obligations.OnlyThreeBytesDecode : Prop :=
  ∀ bytes : List Byte,
    (bytes.length < 3 → decodeBytes bytes = .error .tooFewBytes)
    ∧ (3 < bytes.length → decodeBytes bytes = .error .tooManyBytes)
    ∧ (bytes.length = 3 → ∃ i, decodeBytes bytes = .ok i ∧ encodeBytes i = bytes)

/-- The words of the worked examples of R41 to R43 (`12 34 56`), R40 and R45 (`FF 07 80`), written out bit by bit with
bit 23 first, read as each row's operation on these bytes. That the bytes `FF 07 80` decode to the whole-block
operation is the model's inference from R36 (log entry 4). -/
def Obligations.SpecWordsReadAsTheirOperations : Prop :=
  decodeAs .lane0 0b010101100011010000010010#24 = .lane0 ⟨0x12#8, 0x34#8, 0x56#8⟩
  ∧ decodeAs .lane1 0b010101100011010000010010#24 = .lane1 ⟨0x12#8, 0x34#8, 0x56#8⟩
  ∧ decodeAs .lane2 0b010101100011010000010010#24 = .lane2 ⟨0x12#8, 0x34#8, 0x56#8⟩
  ∧ decodeAs .lane3 0b100000000000011111111111#24 = .lane3 ⟨0xFF#8, 0x07#8, 0x80#8⟩
  ∧ decodeBytes [0xFF#8, 0x07#8, 0x80#8] = .ok (.decode ⟨0xFF#8, 0x07#8, 0x80#8⟩)

/-- No bit selects among the five operations: every word matches every row, and one step leaves on its output ports
what each of the five, read from the same word, leaves there. Each reads only the bits its row names, and the rows
have the names and the all-zero match and mask the rule gives (R36). -/
def Obligations.AllFiveOperationsAreComputedAtOnce : Prop :=
  (∀ w : Word24, matchingRows w = [.lane0, .lane1, .lane2, .lane3, .decode])
  ∧ (∀ s : State, ∃ u : State, step s = .next u ∧
      (∀ k : Offset, ∃ v : State, exec (decodeAs (laneInstr k s.inputs).row s.fetchWord) s = .next v
        ∧ v.out k = u.out k)
      ∧ exec (decodeAs .decode s.fetchWord) s = .next u)
  ∧ (∀ (r : Row) (w w' : Word24) (s : State), w &&& r.reads = w' &&& r.reads →
      ∃ u u' : State, exec (decodeAs r w) s = .next u ∧ exec (decodeAs r w') s = .next u'
        ∧ u.outputs.ofRow r = u'.outputs.ofRow r)
  ∧ Row.reads .lane0 = 0x111111#24 ∧ Row.reads .lane1 = 0x222222#24 ∧ Row.reads .lane2 = 0x444444#24
  ∧ Row.reads .lane3 = 0x888888#24 ∧ Row.reads .decode = 0xFFFFFF#24
  ∧ (∀ e ∈ opcodeTable, e.mask = 0x000000#24 ∧ e.pattern = 0x000000#24)
  ∧ opcodeTable.map (fun e => e.row.mnemonic)
      = ["ABD.LANE0", "ABD.LANE1", "ABD.LANE2", "ABD.LANE3", "ABD.DECODE"]

/-- No input is illegal: every number below 2^24 decodes, every row reads it as an instruction, and every such
instruction completes in every state (R37). -/
def Obligations.NoInputIsRefused : Prop :=
  ∀ w : Nat, w < 2 ^ 24 →
    (∃ i : Instr, decodeTableWord 24 w = some i ∧ i.wellFormed = true)
    ∧ ∀ (r : Row) (s : State), (decodeAs r (BitVec.ofNat 24 w)).wellFormed = true
        ∧ ∃ u : State, exec (decodeAs r (BitVec.ofNat 24 w)) s = .next u

/-- Every operation completes, on every triple and in every state, and every step does: nothing raises an exception
or is refused (R60). -/
def Obligations.EveryInstructionCompletes : Prop :=
  (∀ (i : Instr) (s : State), ∃ u : State, exec i s = .next u) ∧ ∀ s : State, ∃ u : State, step s = .next u

/-! ### The five operations -/

/-- `ABD.LANE0` completes with its triple on the input ports and its pair on `control0` and `valid0`, with the bits
R41 names. -/
def Obligations.Lane0DrivesItsPair : Prop :=
  ∀ (t : Triple) (s : State), ∃ (u : State) (i : Code),
    exec (.lane0 t) s = .next u ∧ u.inputs = t
    ∧ u.control0.getLsbD 2 = t.b1.getLsbD 4 ∧ t.b1.getLsbD 4 = (pack t).getLsbD 12
    ∧ u.control0.getLsbD 1 = t.b2.getLsbD 0 ∧ t.b2.getLsbD 0 = (pack t).getLsbD 16
    ∧ u.control0.getLsbD 0 = t.b2.getLsbD 4 ∧ t.b2.getLsbD 4 = (pack t).getLsbD 20
    ∧ i.getLsbD 2 = t.b0.getLsbD 0 ∧ t.b0.getLsbD 0 = (pack t).getLsbD 0
    ∧ i.getLsbD 1 = t.b0.getLsbD 4 ∧ t.b0.getLsbD 4 = (pack t).getLsbD 4
    ∧ i.getLsbD 0 = t.b1.getLsbD 0 ∧ t.b1.getLsbD 0 = (pack t).getLsbD 8
    ∧ u.valid0 = (u.control0.setWidth 8 == (0x07#8 &&& ~~~ (i.setWidth 8)))
    ∧ u.valid0 = ((t.b1.getLsbD 4 ^^ t.b0.getLsbD 0) && (t.b2.getLsbD 0 ^^ t.b0.getLsbD 4)
            && (t.b2.getLsbD 4 ^^ t.b1.getLsbD 0))
    ∧ (t = ⟨0x12#8, 0x34#8, 0x56#8⟩ → u.control0 = 0b101#3 ∧ u.valid0 = true)

/-- `ABD.LANE1` completes with its triple on the input ports and its pair on `control1` and `valid1`, with the bits
R42 names. -/
def Obligations.Lane1DrivesItsPair : Prop :=
  ∀ (t : Triple) (s : State), ∃ (u : State) (i : Code),
    exec (.lane1 t) s = .next u ∧ u.inputs = t
    ∧ u.control1.getLsbD 2 = t.b1.getLsbD 5 ∧ t.b1.getLsbD 5 = (pack t).getLsbD 13
    ∧ u.control1.getLsbD 1 = t.b2.getLsbD 1 ∧ t.b2.getLsbD 1 = (pack t).getLsbD 17
    ∧ u.control1.getLsbD 0 = t.b2.getLsbD 5 ∧ t.b2.getLsbD 5 = (pack t).getLsbD 21
    ∧ i.getLsbD 2 = t.b0.getLsbD 1 ∧ t.b0.getLsbD 1 = (pack t).getLsbD 1
    ∧ i.getLsbD 1 = t.b0.getLsbD 5 ∧ t.b0.getLsbD 5 = (pack t).getLsbD 5
    ∧ i.getLsbD 0 = t.b1.getLsbD 1 ∧ t.b1.getLsbD 1 = (pack t).getLsbD 9
    ∧ u.valid1 = (u.control1.setWidth 8 == (0x07#8 &&& ~~~ (i.setWidth 8)))
    ∧ u.valid1 = ((t.b1.getLsbD 5 ^^ t.b0.getLsbD 1) && (t.b2.getLsbD 1 ^^ t.b0.getLsbD 5)
            && (t.b2.getLsbD 5 ^^ t.b1.getLsbD 1))
    ∧ (t = ⟨0x12#8, 0x34#8, 0x56#8⟩ → u.control1 = 0b110#3 ∧ u.valid1 = false)

/-- `ABD.LANE2` completes with its triple on the input ports and its pair on `control2` and `valid2`, with the bits
R43 names. -/
def Obligations.Lane2DrivesItsPair : Prop :=
  ∀ (t : Triple) (s : State), ∃ (u : State) (i : Code),
    exec (.lane2 t) s = .next u ∧ u.inputs = t
    ∧ u.control2.getLsbD 2 = t.b1.getLsbD 6 ∧ t.b1.getLsbD 6 = (pack t).getLsbD 14
    ∧ u.control2.getLsbD 1 = t.b2.getLsbD 2 ∧ t.b2.getLsbD 2 = (pack t).getLsbD 18
    ∧ u.control2.getLsbD 0 = t.b2.getLsbD 6 ∧ t.b2.getLsbD 6 = (pack t).getLsbD 22
    ∧ i.getLsbD 2 = t.b0.getLsbD 2 ∧ t.b0.getLsbD 2 = (pack t).getLsbD 2
    ∧ i.getLsbD 1 = t.b0.getLsbD 6 ∧ t.b0.getLsbD 6 = (pack t).getLsbD 6
    ∧ i.getLsbD 0 = t.b1.getLsbD 2 ∧ t.b1.getLsbD 2 = (pack t).getLsbD 10
    ∧ u.valid2 = (u.control2.setWidth 8 == (0x07#8 &&& ~~~ (i.setWidth 8)))
    ∧ u.valid2 = ((t.b1.getLsbD 6 ^^ t.b0.getLsbD 2) && (t.b2.getLsbD 2 ^^ t.b0.getLsbD 6)
            && (t.b2.getLsbD 6 ^^ t.b1.getLsbD 2))
    ∧ (t = ⟨0x12#8, 0x34#8, 0x56#8⟩ → u.control2 = 0b011#3 ∧ u.valid2 = false)

/-- `ABD.LANE3` completes with its triple on the input ports and its pair on `control3` and `valid3`, with the bits
R44 names. -/
def Obligations.Lane3DrivesItsPair : Prop :=
  ∀ (t : Triple) (s : State), ∃ (u : State) (i : Code),
    exec (.lane3 t) s = .next u ∧ u.inputs = t
    ∧ u.control3.getLsbD 2 = t.b1.getLsbD 7 ∧ t.b1.getLsbD 7 = (pack t).getLsbD 15
    ∧ u.control3.getLsbD 1 = t.b2.getLsbD 3 ∧ t.b2.getLsbD 3 = (pack t).getLsbD 19
    ∧ u.control3.getLsbD 0 = t.b2.getLsbD 7 ∧ t.b2.getLsbD 7 = (pack t).getLsbD 23
    ∧ i.getLsbD 2 = t.b0.getLsbD 3 ∧ t.b0.getLsbD 3 = (pack t).getLsbD 3
    ∧ i.getLsbD 1 = t.b0.getLsbD 7 ∧ t.b0.getLsbD 7 = (pack t).getLsbD 7
    ∧ i.getLsbD 0 = t.b1.getLsbD 3 ∧ t.b1.getLsbD 3 = (pack t).getLsbD 11
    ∧ u.valid3 = (u.control3.setWidth 8 == (0x07#8 &&& ~~~ (i.setWidth 8)))
    ∧ u.valid3 = ((t.b1.getLsbD 7 ^^ t.b0.getLsbD 3) && (t.b2.getLsbD 3 ^^ t.b0.getLsbD 7)
            && (t.b2.getLsbD 7 ^^ t.b1.getLsbD 3))
    ∧ (t = ⟨0x12#8, 0x34#8, 0x56#8⟩ → u.control3 = 0b000#3 ∧ u.valid3 = false)

/-- `ABD.LANE(k)`, for each offset, is the pseudocode of R40 on that offset, and its example. -/
def Obligations.LaneFollowsTheSourceFormulas : Prop :=
  (∀ (k : Offset) (t : Triple) (s : State), ∃ u : State, exec (laneInstr k t) s = .next u
    ∧ ∃ (c i : Nat),
      c = (t.b1.toNat >>> (k.val + 4) &&& 1) <<< 2 ||| (t.b2.toNat >>> k.val &&& 1) <<< 1
            ||| (t.b2.toNat >>> (k.val + 4) &&& 1) <<< 0
      ∧ i = (t.b0.toNat >>> k.val &&& 1) <<< 2 ||| (t.b0.toNat >>> (k.val + 4) &&& 1) <<< 1
            ||| (t.b1.toNat >>> k.val &&& 1) <<< 0
      ∧ (u.out k).control.toNat = c
      ∧ ((u.out k).valid = true ↔ c = (7 &&& (255 - i)))
      ∧ u.inputs = t)
  ∧ ∀ s : State, ∃ u : State, exec (.lane3 ⟨0xFF#8, 0x07#8, 0x80#8⟩) s = .next u
      ∧ u.control3 = 0b001#3 ∧ u.valid3 = true

/-- `ABD.DECODE` completes with its triple on the input ports, and delivers on each offset what that offset's lane
delivers from the same triple; it is the four lanes one after another, in any order. Its example is V1 (R45). -/
def Obligations.DecodeDeliversTheFourLanes : Prop :=
  (∀ (t : Triple) (s : State), ∃ u : State, exec (.decode t) s = .next u ∧ u.inputs = t
    ∧ (∀ k : Offset, ∃ v : State, exec (laneInstr k t) s = .next v ∧ u.out k = v.out k)
    ∧ ∀ a b c d : Offset, [a, b, c, d].Nodup → ∃ s1 s2 s3 : State,
        exec (laneInstr a t) s = .next s1 ∧ exec (laneInstr b t) s1 = .next s2
        ∧ exec (laneInstr c t) s2 = .next s3 ∧ exec (laneInstr d t) s3 = .next u)
  ∧ (∀ (v : Nibble) (s : State), ∃ (t : Triple) (u : State), exec (.decode t) s = .next u ∧ u.outputs.VALID = v)
  ∧ ∀ s : State, ∃ u : State, exec (.decode ⟨0xFF#8, 0x07#8, 0x80#8⟩) s = .next u
      ∧ u.outputs = ⟨⟨0b000#3, true⟩, ⟨0b000#3, true⟩, ⟨0b000#3, true⟩, ⟨0b001#3, true⟩⟩
      ∧ u.outputs.CTRL = 0x200#12 ∧ u.outputs.VALID = 0xF#4

/-- THE FRAME, over the five operations. An operation's operands are the input ports: it leaves its triple on them, and
there is nothing else in a state. So an operation on the triple already there changes nothing, in particular no
input and no output (R24); and an operation on a triple that agrees with the present one on the bits of lane
`j` leaves the outputs of offset `j` as they were, whatever it does to the others (R25). -/
def Obligations.OperationsLeaveEverythingElse : Prop :=
  (∀ (i : Instr) (s : State), ∃ u : State, exec i s = .next u ∧ u.inputs = i.triple)
  ∧ (∀ (i : Instr) (s : State), i.triple = s.inputs → exec i s = .next s)
  ∧ ∀ (i : Instr) (s : State) (j : Offset),
      (∀ n : Fin 24, bitLane n = j → (encode i).getLsbD n.val = s.fetchWord.getLsbD n.val) →
      ∃ u : State, exec i s = .next u ∧ u.out j = s.out j

/-- The packed outputs after `ABD.DECODE`, bit by bit (R35). -/
def Obligations.PackedOutputsHoldOffsetZeroLowest : Prop :=
  (∀ (t : Triple) (s : State), ∃ u : State, exec (.decode t) s = .next u ∧ ∀ k : Offset,
    (u.out k).control.getLsbD 2 = t.b1.getLsbD (k.val + 4)
    ∧ (u.out k).control.getLsbD 1 = t.b2.getLsbD k.val
    ∧ (u.out k).control.getLsbD 0 = t.b2.getLsbD (k.val + 4)
    ∧ u.outputs.CTRL.extractLsb' (3 * k.val) 3 = (u.out k).control
    ∧ u.outputs.VALID.getLsbD k.val = (u.out k).valid)
  ∧ (∀ s : State, s.outputs.CTRL = s.control3 ++ s.control2 ++ s.control1 ++ s.control0)
  ∧ ∀ s : State, s.outputs.VALID
      = BitVec.ofBool s.valid3 ++ BitVec.ofBool s.valid2 ++ BitVec.ofBool s.valid1 ++ BitVec.ofBool s.valid0

/-! ### The codes and their validity -/

/-- Each stored bit holds the bit of the code R30 says, and the two copies of each bit are paired as R34 says: a lane
is valid exactly when the two bits of each of its three pairs are complements. -/
def Obligations.EveryStoredBitHoldsItsCodeBit : Prop :=
  ∀ (k : Offset) (t : Triple) (s : State), ∃ (u : State) (i : Code), exec (laneInstr k t) s = .next u
    ∧ t.b1.getLsbD (k.val + 4) = (u.out k).control.getLsbD 2
    ∧ t.b2.getLsbD k.val = (u.out k).control.getLsbD 1
    ∧ t.b2.getLsbD (k.val + 4) = (u.out k).control.getLsbD 0
    ∧ t.b0.getLsbD k.val = i.getLsbD 2
    ∧ t.b0.getLsbD (k.val + 4) = i.getLsbD 1
    ∧ t.b1.getLsbD k.val = i.getLsbD 0
    ∧ i = inverse k t
    ∧ ((u.out k).valid = true ↔
        t.b1.getLsbD (k.val + 4) = !t.b0.getLsbD k.val
        ∧ t.b2.getLsbD k.val = !t.b0.getLsbD (k.val + 4)
        ∧ t.b2.getLsbD (k.val + 4) = !t.b1.getLsbD k.val)

/-- `control` and `inverse` as numbers (R32, R33). -/
def Obligations.ControlAndInverseAsNumbers : Prop :=
  ∀ (k : Offset) (t : Triple) (s : State), ∃ u : State, exec (laneInstr k t) s = .next u
    ∧ (u.out k).control.getLsbD 2 = t.b1.getLsbD (k.val + 4)
    ∧ (u.out k).control.getLsbD 1 = t.b2.getLsbD k.val
    ∧ (u.out k).control.getLsbD 0 = t.b2.getLsbD (k.val + 4)
    ∧ (u.out k).control.toNat
        = 4 * (t.b1.getLsbD (k.val + 4)).toNat + 2 * (t.b2.getLsbD k.val).toNat + (t.b2.getLsbD (k.val + 4)).toNat
    ∧ (inverse k t).getLsbD 2 = t.b0.getLsbD k.val
    ∧ (inverse k t).getLsbD 1 = t.b0.getLsbD (k.val + 4)
    ∧ (inverse k t).getLsbD 0 = t.b1.getLsbD k.val
    ∧ (inverse k t).toNat
        = 4 * (t.b0.getLsbD k.val).toNat + 2 * (t.b0.getLsbD (k.val + 4)).toNat + (t.b1.getLsbD k.val).toNat

/-- `valid` is 1 exactly when `control` equals the 8-bit complement of `inverse` masked to 3 bits, that is when the two
add up to 7; the eight rows of the table (R46). -/
def Obligations.ValidMeansControlIsTheMaskedComplement : Prop :=
  (∀ (k : Offset) (t : Triple) (s : State), ∃ u : State, exec (laneInstr k t) s = .next u
    ∧ ((u.out k).valid = true ↔
        (u.out k).control.setWidth 8 = (0x07#8 &&& ~~~ ((inverse k t).setWidth 8)))
    ∧ ((u.out k).valid = true ↔ (u.out k).control.toNat + (inverse k t).toNat = 7))
  ∧ ∀ i : Code, (NOT8 (zext8 i)).toNat = 255 - i.toNat
      ∧ (0x07#8 &&& NOT8 (zext8 i)).toNat = 7 - i.toNat
      ∧ ∀ c : Code, validFormula c i = true ↔ c.toNat = 7 - i.toNat

/-- The arithmetic the block uses, each operation with its law in numbers (R47). -/
def Obligations.ArithmeticIsExact : Prop :=
  (∀ (v : Byte) (p : Fin 8), (T v p).toNat = v.toNat / 2 ^ p.val % 2)
  ∧ (∀ (x y z : Bool), (assemble ((BitVec.ofBool x).setWidth 8) ((BitVec.ofBool y).setWidth 8)
        ((BitVec.ofBool z).setWidth 8)).toNat = 4 * x.toNat + 2 * y.toNat + z.toNat)
  ∧ (∀ v : Byte, (NOT8 v).toNat = 255 - v.toNat ∧ NOT8 v = v ^^^ 0xFF#8)
  ∧ ∀ i : Code, 248 ≤ (NOT8 (zext8 i)).toNat ∧ (mask &&& NOT8 (zext8 i)).toNat = 7 - i.toNat

/-- `control` is always in 0 to 7, and on every lane every value does occur, both with `valid` 1 and with `valid` 0
(R48). -/
def Obligations.ControlStaysInRangeAndEveryPairOccurs : Prop :=
  (∀ (i : Instr) (s u : State), exec i s = .next u → ∀ k : Offset, (u.out k).control.toNat ≤ 7)
  ∧ ∀ (k : Offset) (c : Code) (v : Bool) (s : State), ∃ (t : Triple) (u : State),
      exec (.decode t) s = .next u ∧ u.out k = ⟨c, v⟩

/-- Whenever the two copies disagree, `valid` is 0, and `control` is still the direct copy (R49). -/
def Obligations.DisagreeingCopiesAreReportedNotCorrected : Prop :=
  ∀ (k : Offset) (t : Triple) (s : State), ∃ u : State, exec (laneInstr k t) s = .next u
    ∧ (u.out k).control.toNat
        = 4 * (t.b1.getLsbD (k.val + 4)).toNat + 2 * (t.b2.getLsbD k.val).toNat + (t.b2.getLsbD (k.val + 4)).toNat
    ∧ ((u.out k).control.setWidth 8 ≠ (0x07#8 &&& ~~~ ((inverse k t).setWidth 8)) → (u.out k).valid = false)

/-- A code stored directly at an offset with its complement in the inverted copy is delivered with `valid` 1, whatever
the other 18 bits of the triple are (R50). -/
def Obligations.ConsistentlyStoredCodesAreDelivered : Prop :=
  ∀ (k : Offset) (c : Code) (t : Triple) (s : State),
    t.b1.getLsbD (k.val + 4) = c.getLsbD 2 → t.b2.getLsbD k.val = c.getLsbD 1 →
    t.b2.getLsbD (k.val + 4) = c.getLsbD 0 → t.b0.getLsbD k.val = !c.getLsbD 2 →
    t.b0.getLsbD (k.val + 4) = !c.getLsbD 1 → t.b1.getLsbD k.val = !c.getLsbD 0 →
    (∃ u : State, exec (laneInstr k t) s = .next u ∧ u.out k = ⟨c, true⟩)
    ∧ (∃ u : State, exec (.decode t) s = .next u ∧ u.out k = ⟨c, true⟩)
    ∧ ∃ u : State, step (s.present t) = .next u ∧ u.out k = ⟨c, true⟩

/-- The validity of a lane as the and of three exclusive-ors, and of the four lanes at once on nibbles (R51). -/
def Obligations.ValidityIsTheAndOfThreeExclusiveOrs : Prop :=
  ∀ (t : Triple) (s : State), ∃ u : State, exec (.decode t) s = .next u
    ∧ (∀ k : Offset,
      (u.out k).valid = (((u.out k).control.getLsbD 2 ^^ (inverse k t).getLsbD 2)
          && ((u.out k).control.getLsbD 1 ^^ (inverse k t).getLsbD 1)
          && ((u.out k).control.getLsbD 0 ^^ (inverse k t).getLsbD 0))
      ∧ (u.out k).valid = ((t.b1.getLsbD (k.val + 4) ^^ t.b0.getLsbD k.val)
          && (t.b2.getLsbD k.val ^^ t.b0.getLsbD (k.val + 4))
          && (t.b2.getLsbD (k.val + 4) ^^ t.b1.getLsbD k.val))
      ∧ (t.b1.extractLsb' 4 4).getLsbD k.val = (u.out k).control.getLsbD 2
      ∧ (t.b2.extractLsb' 0 4).getLsbD k.val = (u.out k).control.getLsbD 1
      ∧ (t.b2.extractLsb' 4 4).getLsbD k.val = (u.out k).control.getLsbD 0)
    ∧ u.outputs.VALID = ((t.b1.extractLsb' 4 4 ^^^ t.b0.extractLsb' 0 4)
        &&& (t.b2.extractLsb' 0 4 ^^^ t.b0.extractLsb' 4 4)
        &&& (t.b2.extractLsb' 4 4 ^^^ t.b1.extractLsb' 0 4))

/-- The width of the complement does not matter once it is 3 or more, unbounded included; what breaks the check is
dropping the mask (never true) or the other grouping (a different function) (R52). -/
def Obligations.ComplementWidthDoesNotMatter : Prop :=
  (∀ (n : Nat) (i : Code), 3 ≤ n → ((7#n &&& ~~~ (i.setWidth n)).toNat = 7 - i.toNat))
  ∧ (∀ (n : Nat) (k : Offset) (t : Triple) (s : State), 3 ≤ n → ∃ u : State, exec (laneInstr k t) s = .next u
      ∧ (u.out k).valid = ((u.out k).control.setWidth n == (7#n &&& ~~~ ((inverse k t).setWidth n))))
  ∧ (∀ i : Code, Int.land 7 (-(i.toNat : Int) - 1) = 7 - (i.toNat : Int))
  ∧ (∀ c i : Code, zext8 c ≠ NOT8 (zext8 i))
  ∧ ∃ (c i : Code), validFormula c i ≠ ((if c = 7#3 then 1#8 else 0#8) &&& NOT8 (zext8 i) != 0#8)

/-- Lane `k` reads the bits `W[n]` with `n mod 4 = k` and no others, and no input bit is ignored (R53). -/
def Obligations.LanesReadDisjointBitsAndNoneIsIgnored : Prop :=
  (∀ (k : Offset) (t t' : Triple) (s : State),
    (∀ n : Fin 24, bitLane n = k → (pack t).getLsbD n.val = (pack t').getLsbD n.val) →
      (∃ u u' : State, exec (laneInstr k t) s = .next u ∧ exec (laneInstr k t') s = .next u' ∧ u.out k = u'.out k)
      ∧ ∃ u u' : State, exec (.decode t) s = .next u ∧ exec (.decode t') s = .next u' ∧ u.out k = u'.out k)
  ∧ (∀ n : Fin 24, ∃ (w : Word24) (s u u' : State),
      exec (.decode (unpack w)) s = .next u ∧ exec (.decode (unpack (w ^^^ (1#24 <<< n.val)))) s = .next u'
      ∧ u.out (bitLane n) ≠ u'.out (bitLane n))
  ∧ ∀ (k : Offset) (n : Fin 24), bitLane n = k ↔
      n.val = k.val ∨ n.val = 4 + k.val ∨ n.val = 8 + k.val ∨ n.val = 12 + k.val ∨ n.val = 16 + k.val
      ∨ n.val = 20 + k.val

/-- The effect of changing one input bit `W[n]`, with `k = n mod 4`: (a) which outputs can change, and how `controlk`
does; (b) a consistent lane becomes inconsistent; (c) an inconsistent lane becomes consistent exactly when
the pair of `W[n]` was its only failing one. And the consequences R54 draws. -/
def Obligations.SingleBitChangesAreDetected : Prop :=
  (∀ (w : Word24) (n : Fin 24) (s : State), ∃ u u' : State,
    exec (.decode (unpack w)) s = .next u ∧ exec (.decode (unpack (w ^^^ (1#24 <<< n.val)))) s = .next u'
    ∧ (∀ j : Offset, j ≠ bitLane n → u'.out j = u.out j)
    ∧ (u'.out (bitLane n)).control
        = (u.out (bitLane n)).control ^^^
            (if n.val < 12 then 0b000#3 else if n.val < 16 then 0b100#3 else if n.val < 20 then 0b010#3 else 0b001#3)
    ∧ ((u.out (bitLane n)).valid = true → (u'.out (bitLane n)).valid = false)
    ∧ ((u.out (bitLane n)).valid = false → ((u'.out (bitLane n)).valid = true ↔
        ∀ m : Nat, m < 3 →
          (w.getLsbD (4 * m + n.val % 4) = w.getLsbD (12 + 4 * m + n.val % 4) ↔ m = n.val % 12 / 4))))
  ∧ (∀ (k : Offset) (w w' : Word24), valid k (unpack w) = true → valid k (unpack w') = true →
      (∃ n : Fin 24, bitLane n = k ∧ w.getLsbD n.val ≠ w'.getLsbD n.val) →
      ∃ m n : Fin 24, m ≠ n ∧ bitLane m = k ∧ bitLane n = k
        ∧ w.getLsbD m.val ≠ w'.getLsbD m.val ∧ w.getLsbD n.val ≠ w'.getLsbD n.val)
  ∧ (block ⟨0x00#8, 0x00#8, 0x00#8⟩).VALID = 0x0#4 ∧ (block ⟨0xFF#8, 0xFF#8, 0xFF#8⟩).VALID = 0x0#4
  ∧ ∀ w : Word24, (block (unpack (~~~ w))).VALID = (block (unpack w)).VALID
      ∧ ∀ k : Offset, ((block (unpack (~~~ w))).get k).control.toNat = 7 - ((block (unpack w)).get k).control.toNat

/-- The counts over the 64 values of a lane's six bits and over all 2^24 words: each lane, each number of valid lanes,
each value of `VALID`, and the well-formed words, one for each value of `CTRL` (R55). -/
def Obligations.ValidTriplesAreCounted : Prop :=
  (∀ c : Code, (Finset.univ.filter fun i : Code => validFormula c i = true).card = 1
      ∧ (Finset.univ.filter fun i : Code => validFormula c i = false).card = 7)
  ∧ (Finset.univ.filter fun p : Code × Code => validFormula p.1 p.2 = true).card = 8
  ∧ (Finset.univ.filter fun p : Code × Code => validFormula p.1 p.2 = false).card = 56
  ∧ (∀ k : Offset, (Finset.univ.filter fun w : Word24 => valid k (unpack w) = true).card = 2097152)
  ∧ (∀ v : Nibble, (Finset.univ.filter fun w : Word24 => (block (unpack w)).VALID = v).card
      = 8 ^ (Finset.univ.filter fun k : Offset => v.getLsbD k.val = true).card
        * 56 ^ (Finset.univ.filter fun k : Offset => v.getLsbD k.val = false).card)
  ∧ (∀ j : Nat, j ≤ 4 →
      (Finset.univ.filter fun w : Word24 =>
        (Finset.univ.filter fun k : Offset => valid k (unpack w) = true).card = j).card
      = Nat.choose 4 j * 8 ^ j * 56 ^ (4 - j))
  ∧ Nat.choose 4 0 * 8 ^ 0 * 56 ^ 4 = 9834496 ∧ Nat.choose 4 1 * 8 ^ 1 * 56 ^ 3 = 5619712
  ∧ Nat.choose 4 2 * 8 ^ 2 * 56 ^ 2 = 1204224 ∧ Nat.choose 4 3 * 8 ^ 3 * 56 ^ 1 = 114688
  ∧ Nat.choose 4 4 * 8 ^ 4 * 56 ^ 0 = 4096
  ∧ (Finset.univ.filter fun w : Word24 => tripleWellFormed (unpack w) = true).card = 4096
  ∧ ∀ c : BitVec 12, ∃! w : Word24, tripleWellFormed (unpack w) = true ∧ (block (unpack w)).CTRL = c

/-- The reference encoder and the block are inverse to each other on the well-formed triples, which are exactly those
whose nibbles are complements as R56 says; `ENC(0, 0, 0, 1)` is `FF 07 80`. -/
def Obligations.ReferenceEncoderAndDecodeAreInverse : Prop :=
  (∀ (c0 c1 c2 c3 : Code) (s : State), ∃ u : State, exec (.decode (ENC c0 c1 c2 c3)) s = .next u
    ∧ u.outputs = ⟨⟨c0, true⟩, ⟨c1, true⟩, ⟨c2, true⟩, ⟨c3, true⟩⟩)
  ∧ (∀ (t : Triple) (s u : State), exec (.decode t) s = .next u → u.outputs.VALID = 0xF#4 →
      ENC u.control0 u.control1 u.control2 u.control3 = t)
  ∧ (∀ t : Triple, tripleWellFormed t = true ↔
      t.b0.extractLsb' 0 4 = NOT4 (t.b1.extractLsb' 4 4) ∧ t.b0.extractLsb' 4 4 = NOT4 (t.b2.extractLsb' 0 4)
      ∧ t.b1.extractLsb' 0 4 = NOT4 (t.b2.extractLsb' 4 4))
  ∧ ENC 0 0 0 1 = ⟨0xFF#8, 0x07#8, 0x80#8⟩

/-! ### Sequences of inputs -/

/-- Whatever the environment does to the input ports, one byte at a time or all three, the outputs read after each
change are those of the triple then on the ports, mixed or not, and of nothing else (R25, R73). -/
def Obligations.OutputsOfEverySequenceAreThoseOfEachTriple : Prop :=
  ∀ (ds : List Drive) (s : State), trace ds s = some ((inputsAfter ds s.inputs).map block)

/-- Presenting a triple again, with any other triples in between and from any state, gives the same outputs both times
(R18). -/
def Obligations.PresentingATripleAgainGivesTheSameOutputs : Prop :=
  ∀ (before between : List Triple) (t : Triple) (s : State), ∃ os : List Outputs,
    trace ((before ++ t :: between ++ [t]).map Drive.triple) s = some os
    ∧ os.length = before.length + between.length + 2
    ∧ os[before.length]? = os.getLast? ∧ os.getLast? = some (block t)

/-- The result for a triple does not depend on the order in which triples are presented: reordering the triples
reorders the outputs alike (R25). -/
def Obligations.OrderOfTriplesDoesNotMatter : Prop :=
  ∀ (ts us : List Triple) (s s' : State), ts.Perm us → ∃ os os' : List Outputs,
    trace (ts.map Drive.triple) s = some os ∧ trace (us.map Drive.triple) s' = some os'
    ∧ (ts.zip os).Perm (us.zip os')

/-- A lane that is reported inconsistent is not latched: once a triple that stores a code consistently is present it is
reported valid, at once and after the next step, with no acknowledgement in between; and the report stops
nothing (R61). -/
def Obligations.InconsistencyIsNotLatched : Prop :=
  ∀ (s : State) (k : Offset) (t : Triple), (s.out k).valid = false → valid k t = true →
    ∃ u v : State, step s = .next u ∧ ((u.present t).out k).valid = true
      ∧ step (u.present t) = .next v ∧ (v.out k).valid = true ∧ (v.out k).control = control k t

/-- The four rows of R73's example: going from `FF 07 80` to `78 77 88` one byte at a time. -/
def Obligations.MixedTriplesAreReportedAsTheyAre : Prop :=
  ∀ s : State, trace [.triple ⟨0xFF#8, 0x07#8, 0x80#8⟩, .b0 0x78#8, .b1 0x77#8, .b2 0x88#8] s = some
    [ ⟨⟨0b000#3, true⟩, ⟨0b000#3, true⟩, ⟨0b000#3, true⟩, ⟨0b001#3, true⟩⟩,
      ⟨⟨0b000#3, false⟩, ⟨0b000#3, false⟩, ⟨0b000#3, false⟩, ⟨0b001#3, false⟩⟩,
      ⟨⟨0b100#3, true⟩, ⟨0b100#3, true⟩, ⟨0b100#3, true⟩, ⟨0b001#3, false⟩⟩,
      ⟨⟨0b100#3, true⟩, ⟨0b100#3, true⟩, ⟨0b100#3, true⟩, ⟨0b011#3, true⟩⟩ ]

/-- The order of the three bytes matters: V1 with its bytes exchanged or rotated (V19 to V22 of 95_test_vectors.md)
gives other outputs, since each byte has its own role (R22). -/
def Obligations.ExchangingBytesChangesTheResult : Prop :=
  ∀ s : State, (trace [.triple ⟨0xFF#8, 0x07#8, 0x80#8⟩, .triple ⟨0x07#8, 0x80#8, 0xFF#8⟩,
      .triple ⟨0x80#8, 0x07#8, 0xFF#8⟩, .triple ⟨0xFF#8, 0x80#8, 0x07#8⟩,
      .triple ⟨0x07#8, 0xFF#8, 0x80#8⟩] s).map (fun os => os.map fun o => (o.CTRL, o.VALID))
    = some [(0x200#12, 0xF#4), (0xEDB#12, 0xF#4), (0x6DB#12, 0x0#4), (0x892#12, 0x0#4), (0xB24#12, 0x0#4)]

/-- The environment's triple is bytes 38, 39, 40 of the chunk, in that order, and no other byte of the chunk, the
reserved byte at 41 among them, has any effect (R7). -/
def Obligations.ChunkTripleIsBytes38To40 : Prop :=
  (∀ (before after : List Byte) (x y z : Byte), before.length = 38 →
    chunkTriple (before ++ x :: y :: z :: after) = some ⟨x, y, z⟩)
  ∧ ∀ (chunk : List Byte) (n : Nat) (v : Byte), n ≠ 38 → n ≠ 39 → n ≠ 40 →
    chunkTriple (chunk.set n v) = chunkTriple chunk

/-- The textual form of R38 on its example. -/
def Obligations.TextOfTheScenarioTriple : Prop :=
  opText (.decode ⟨0xFF#8, 0x07#8, 0x80#8⟩) State.reset = some "ABD.DECODE FF 07 80 -> 000/1 000/1 000/1 001/1"
  ∧ opText (.lane0 ⟨0x12#8, 0x34#8, 0x56#8⟩) State.reset = some "ABD.LANE0 12 34 56 -> 101/1"
end

