-- ==== Sys2Proof/Laws/State.lean ====
section
/-! SUPPORT. What an update of the input ports does, port by port and view by view: there is one update, `present`. -/

namespace Sys2Proof.Machine

section updates
variable (s : State) (t : Triple) (k : Offset)

@[simp] theorem State.present_b0 : (s.present t).b0 = t.b0 := rfl
@[simp] theorem State.present_b1 : (s.present t).b1 = t.b1 := rfl
@[simp] theorem State.present_b2 : (s.present t).b2 = t.b2 := rfl
@[simp] theorem State.present_control0 : (s.present t).control0 = control 0 t := rfl
@[simp] theorem State.present_valid0 : (s.present t).valid0 = valid 0 t := rfl
@[simp] theorem State.present_control1 : (s.present t).control1 = control 1 t := rfl
@[simp] theorem State.present_valid1 : (s.present t).valid1 = valid 1 t := rfl
@[simp] theorem State.present_control2 : (s.present t).control2 = control 2 t := rfl
@[simp] theorem State.present_valid2 : (s.present t).valid2 = valid 2 t := rfl
@[simp] theorem State.present_control3 : (s.present t).control3 = control 3 t := rfl
@[simp] theorem State.present_valid3 : (s.present t).valid3 = valid 3 t := rfl

@[simp] theorem State.inputs_present : (s.present t).inputs = t := rfl
@[simp] theorem State.fetchWord_present : (s.present t).fetchWord = pack t := rfl
/-- The outputs follow a change of the inputs at once: nothing of the earlier triple is left (R11, R15, R18). -/
@[simp] theorem State.outputs_present : (s.present t).outputs = block t := rfl
@[simp] theorem State.out_present : (s.present t).out k = lane k t := rfl

/-- Presenting what is already there changes nothing. -/
@[simp] theorem State.present_inputs : s.present s.inputs = s := rfl
/-- The last triple presented is all that is left. -/
@[simp] theorem State.present_present (u : Triple) : (s.present t).present u = s.present u := rfl
/-- What was shown before does not matter. -/
theorem State.present_eq (s' : State) : s.present t = s'.present t := rfl

/-- The inputs after a drive. -/
@[simp] theorem State.inputs_drive (d : Drive) : (s.drive d).inputs = d.apply s.inputs := rfl
@[simp] theorem State.outputs_drive (d : Drive) : (s.drive d).outputs = block (d.apply s.inputs) := rfl

/-- The output view of one offset agrees with the four pairs in order. -/
@[simp] theorem State.get_outputs : s.outputs.get k = s.out k := by
  fin_cases k <;> rfl

end updates

/-- A state is the triple on the input ports: the block adds nothing to it (R18). -/
theorem State.eq_of_inputs {s u : State} (h : s.inputs = u.inputs) : s = u := by
  cases s; cases u
  simp_all [State.inputs]

end Sys2Proof.Machine
end

