-- ==== Sys2Proof/Laws/Operands.lean ====
section
/-! SUPPORT. The bits of the packed word, of `control` and of `inverse`, and the validity formula in its bit form:
the definitions are unfolded here once (R30 to R34, R46, R51). -/

namespace Sys2Proof

/-- Bit `p` of `W`, by byte (R31). -/
theorem pack_getLsbD (t : Triple) (p : Nat) :
    (pack t).getLsbD p =
      if p < 8 then t.b0.getLsbD p else if p < 16 then t.b1.getLsbD (p - 8) else t.b2.getLsbD (p - 16) := by
  simp only [pack, BitVec.getLsbD_append]
  split
  · rfl
  · rename_i h
    simp only [show (p - 8 < 8) = (p < 16) by simp; omega, show p - 8 - 8 = p - 16 by omega]

/-- `W` is a second name for the three bytes: nothing is lost (R31). -/
@[simp] theorem unpack_pack (t : Triple) : unpack (pack t) = t := by
  cases t with
  | mk x y z =>
    simp only [unpack, Triple.mk.injEq]
    refine ⟨?_, ?_, ?_⟩ <;> ext i hi <;> simp only [BitVec.getElem_extractLsb', pack_getLsbD]
    · simp [hi]
    · simp [show 8 + i < 16 by omega, BitVec.getLsbD_eq_getElem hi]
    · simp [show ¬ 16 + i < 8 by omega, show ¬ 16 + i < 16 by omega, BitVec.getLsbD_eq_getElem hi]

@[simp] theorem pack_unpack (w : Word24) : pack (unpack w) = w := by
  ext i hi
  rw [← BitVec.getLsbD_eq_getElem, pack_getLsbD, ← BitVec.getLsbD_eq_getElem]
  simp only [unpack, BitVec.getLsbD_extractLsb']
  split
  · simp [*]
  · split
    · rw [show 8 + (i - 8) = i by omega]; simp; omega
    · rw [show 16 + (i - 16) = i by omega]; simp; omega

/-- `W` as a number (R31). -/
theorem toNat_pack (t : Triple) :
    (pack t).toNat = t.b0.toNat + 2 ^ 8 * t.b1.toNat + 2 ^ 16 * t.b2.toNat := by
  have h0 := t.b0.isLt
  have h1 := t.b1.isLt
  simp only [pack, BitVec.toNat_append]
  rw [← Nat.shiftLeft_add_eq_or_of_lt h1, ← Nat.shiftLeft_add_eq_or_of_lt h0]
  simp only [Nat.shiftLeft_eq]
  omega

theorem pack_injective {t u : Triple} (h : pack t = pack u) : t = u := by
  rw [← unpack_pack t, h, unpack_pack]

namespace Machine

/-- The bit test is the tested bit, as a number 0 or 1 (R4). -/
theorem T_eq (v : Byte) (p : Fin 8) : T v p = (BitVec.ofBool (v.getLsbD p.val)).setWidth 8 := by
  ext i hi
  simp only [T, BitVec.getElem_and, BitVec.getElem_ushiftRight, BitVec.getElem_setWidth, BitVec.getLsbD_ofBool]
  cases i <;> simp [BitVec.getElem_one]

/-- Three tested bits, assembled: bit 2, bit 1, bit 0 (R32, R33). -/
theorem assemble_ofBool (x y z : Bool) :
    assemble ((BitVec.ofBool x).setWidth 8) ((BitVec.ofBool y).setWidth 8) ((BitVec.ofBool z).setWidth 8)
      = BitVec.ofBool x ++ BitVec.ofBool y ++ BitVec.ofBool z := by
  revert x y z; decide

/-- The direct copy, bit by bit, most significant first (R32). -/
theorem control_eq (k : Offset) (t : Triple) :
    control k t = BitVec.ofBool (t.b1.getLsbD (k.val + 4)) ++ BitVec.ofBool (t.b2.getLsbD k.val)
      ++ BitVec.ofBool (t.b2.getLsbD (k.val + 4)) := by
  simp only [control, T_eq, assemble_ofBool, lowBit, highBit]

/-- The inverted copy, bit by bit, most significant first (R33). -/
theorem inverse_eq (k : Offset) (t : Triple) :
    inverse k t = BitVec.ofBool (t.b0.getLsbD k.val) ++ BitVec.ofBool (t.b0.getLsbD (k.val + 4))
      ++ BitVec.ofBool (t.b1.getLsbD k.val) := by
  simp only [inverse, T_eq, assemble_ofBool, lowBit, highBit]

/-- The bits of three single bits in a row. -/
theorem threeBits_getLsbD (x y z : Bool) :
    (BitVec.ofBool x ++ BitVec.ofBool y ++ BitVec.ofBool z).getLsbD 2 = x
    ∧ (BitVec.ofBool x ++ BitVec.ofBool y ++ BitVec.ofBool z).getLsbD 1 = y
    ∧ (BitVec.ofBool x ++ BitVec.ofBool y ++ BitVec.ofBool z).getLsbD 0 = z := by
  revert x y z; decide

section bits
variable (k : Offset) (t : Triple)

theorem control_bit2 : (control k t).getLsbD 2 = t.b1.getLsbD (k.val + 4) := by
  rw [control_eq]; exact (threeBits_getLsbD ..).1
theorem control_bit1 : (control k t).getLsbD 1 = t.b2.getLsbD k.val := by
  rw [control_eq]; exact (threeBits_getLsbD ..).2.1
theorem control_bit0 : (control k t).getLsbD 0 = t.b2.getLsbD (k.val + 4) := by
  rw [control_eq]; exact (threeBits_getLsbD ..).2.2
theorem inverse_bit2 : (inverse k t).getLsbD 2 = t.b0.getLsbD k.val := by
  rw [inverse_eq]; exact (threeBits_getLsbD ..).1
theorem inverse_bit1 : (inverse k t).getLsbD 1 = t.b0.getLsbD (k.val + 4) := by
  rw [inverse_eq]; exact (threeBits_getLsbD ..).2.1
theorem inverse_bit0 : (inverse k t).getLsbD 0 = t.b1.getLsbD k.val := by
  rw [inverse_eq]; exact (threeBits_getLsbD ..).2.2

end bits

/-- A code is its three bits. -/
theorem code_eq_of_bits {c d : Code} (h2 : c.getLsbD 2 = d.getLsbD 2) (h1 : c.getLsbD 1 = d.getLsbD 1)
    (h0 : c.getLsbD 0 = d.getLsbD 0) : c = d := by
  revert c d; decide

/-- The validity formula is the and of three exclusive-ors (R51). -/
theorem validFormula_eq_xor (c i : Code) :
    validFormula c i = ((c.getLsbD 2 ^^ i.getLsbD 2) && (c.getLsbD 1 ^^ i.getLsbD 1)
      && (c.getLsbD 0 ^^ i.getLsbD 0)) := by
  revert c i; decide

/-- The validity formula in numbers (R46). -/
theorem validFormula_iff_add (c i : Code) : validFormula c i = true ↔ c.toNat + i.toNat = 7 := by
  revert c i; decide

/-- The validity formula with the 3-bit complement (R52, D19). -/
theorem validFormula_eq_not3 (c i : Code) : validFormula c i = (c == ~~~ i) := by
  revert c i; decide

/-- `valid` in its bit form, on the input bits (R51). -/
theorem valid_eq_xor (k : Offset) (t : Triple) :
    valid k t = ((t.b1.getLsbD (k.val + 4) ^^ t.b0.getLsbD k.val)
      && (t.b2.getLsbD k.val ^^ t.b0.getLsbD (k.val + 4))
      && (t.b2.getLsbD (k.val + 4) ^^ t.b1.getLsbD k.val)) := by
  simp only [valid, validFormula_eq_xor, control_bit2, control_bit1, control_bit0, inverse_bit2, inverse_bit1,
    inverse_bit0]

/-- The six bits of a lane in the packed word: every fourth bit from `W[k]` (R31, R53). -/
theorem lane_bits_of_pack (k : Offset) (t : Triple) :
    t.b0.getLsbD k.val = (pack t).getLsbD k.val
    ∧ t.b0.getLsbD (k.val + 4) = (pack t).getLsbD (4 + k.val)
    ∧ t.b1.getLsbD k.val = (pack t).getLsbD (8 + k.val)
    ∧ t.b1.getLsbD (k.val + 4) = (pack t).getLsbD (12 + k.val)
    ∧ t.b2.getLsbD k.val = (pack t).getLsbD (16 + k.val)
    ∧ t.b2.getLsbD (k.val + 4) = (pack t).getLsbD (20 + k.val) := by
  simp only [pack_getLsbD]
  fin_cases k <;> simp

/-- A lane's pair depends on its six bits only (R53). -/
theorem lane_congr {k : Offset} {t u : Triple}
    (h : ∀ m < 6, (pack t).getLsbD (4 * m + k.val) = (pack u).getLsbD (4 * m + k.val)) : lane k t = lane k u := by
  have h0 := h 0 (by omega)
  have h1 := h 1 (by omega)
  have h2 := h 2 (by omega)
  have h3 := h 3 (by omega)
  have h4 := h 4 (by omega)
  have h5 := h 5 (by omega)
  simp only [Nat.mul_zero, Nat.zero_add, Nat.reduceMul] at h0 h1 h2 h3 h4 h5
  obtain ⟨a0, a1, a2, a3, a4, a5⟩ := lane_bits_of_pack k t
  obtain ⟨e0, e1, e2, e3, e4, e5⟩ := lane_bits_of_pack k u
  simp only [lane, valid_eq_xor, control_eq, a0, a1, a2, a3, a4, a5, e0, e1, e2, e3, e4, e5, h0, h1, h2, h3, h4, h5]

/-- One lane of the four. -/
@[simp] theorem get_block (k : Offset) (t : Triple) : (block t).get k = lane k t := by
  fin_cases k <;> rfl

/-- The bits of a nibble made of four. -/
theorem nibbleOf_getLsbD (n0 n1 n2 n3 : Bool) :
    (nibbleOf n0 n1 n2 n3).getLsbD 0 = n0 ∧ (nibbleOf n0 n1 n2 n3).getLsbD 1 = n1
    ∧ (nibbleOf n0 n1 n2 n3).getLsbD 2 = n2 ∧ (nibbleOf n0 n1 n2 n3).getLsbD 3 = n3 := by
  revert n0 n1 n2 n3; decide

/-- `VALID[k] = validk` (R35). -/
@[simp] theorem Outputs.VALID_getLsbD (o : Outputs) (k : Offset) : o.VALID.getLsbD k.val = (o.get k).valid := by
  obtain ⟨h0, h1, h2, h3⟩ := nibbleOf_getLsbD o.lane0.valid o.lane1.valid o.lane2.valid o.lane3.valid
  fin_cases k
  · exact h0
  · exact h1
  · exact h2
  · exact h3

/-- A triple is well formed exactly when every lane is consistent (R55). -/
theorem tripleWellFormed_iff (t : Triple) : tripleWellFormed t = true ↔ ∀ k : Offset, valid k t = true := by
  have key : ∀ v0 v1 v2 v3 : Bool, nibbleOf v0 v1 v2 v3 = 0xF#4
      ↔ v0 = true ∧ v1 = true ∧ v2 = true ∧ v3 = true := by decide
  rw [tripleWellFormed, beq_iff_eq, show (block t).VALID = nibbleOf (valid 0 t) (valid 1 t) (valid 2 t) (valid 3 t)
    from rfl, key]
  constructor
  · rintro ⟨h0, h1, h2, h3⟩ k
    fin_cases k <;> assumption
  · intro h
    exact ⟨h 0, h 1, h 2, h 3⟩

end Machine
end Sys2Proof
end

