-- ==== Sys2Proof/Laws/Meanings.lean ====
section
/-! SUPPORT. What each meaning, and one step, answers: later proofs cite these instead of unfolding `exec`. -/

namespace Sys2Proof

namespace Machine

section meanings
variable (t : Triple) (s : State)

@[simp] theorem exec_lane0 : exec (.lane0 t) s = .next (s.present t) := rfl
@[simp] theorem exec_lane1 : exec (.lane1 t) s = .next (s.present t) := rfl
@[simp] theorem exec_lane2 : exec (.lane2 t) s = .next (s.present t) := rfl
@[simp] theorem exec_lane3 : exec (.lane3 t) s = .next (s.present t) := rfl
@[simp] theorem exec_decode : exec (.decode t) s = .next (s.present t) := rfl

/-- Everything an operation can do: it answers the state in which its triple is on the input ports, and so its
results on its output ports (R11, R36). -/
theorem exec_eq (i : Instr) : exec i s = .next (s.present i.triple) := by
  cases i <;> rfl

@[simp] theorem exec_laneInstr (k : Offset) : exec (laneInstr k t) s = .next (s.present t) := by
  fin_cases k <;> rfl

/-- One step changes nothing: the outputs already are those of the present inputs (R11, D17). -/
@[simp] theorem step_eq : step s = .next s := by
  simp only [step, decodeWord, decodeAs, State.fetchWord, unpack_pack, exec_decode, State.present_inputs]

end meanings

/-- One drive of a sequence: the block of the new inputs is read, and the rest goes on from them. -/
theorem trace_cons (d : Drive) (ds : List Drive) (s : State) :
    trace (d :: ds) s = (trace ds (s.drive d)).map (block (d.apply s.inputs) :: ·) := by
  simp only [trace, step_eq, State.outputs_drive]

/-- A run of one step more is the same run. -/
theorem run_succ (n : Nat) (s : State) : Host.Core.run core (n + 1) s = Host.Core.run core n s := by
  have h : core.step s = .next s := step_eq s
  simp only [Host.Core.run, h]

/-- Fetching back a triple's word: the triple is presented. -/
@[simp] theorem State.withFetchWord_pack (s : State) (t : Triple) :
    s.withFetchWord 24 (pack t).toNat = s.present t := by
  have h : (pack t).toNat % 2 ^ 24 = (pack t).toNat := Nat.mod_eq_of_lt (pack t).isLt
  rw [State.withFetchWord, h, BitVec.ofNat_toNat, BitVec.setWidth_eq, unpack_pack]

end Machine

/-- A raw word is well formed when it fits its bits and the bits fit the block's 24. -/
theorem rawWordWellFormed_iff (nbits w : Nat) :
    rawWordWellFormed nbits w = true ↔ nbits ≤ 24 ∧ w < 2 ^ nbits := by
  rw [rawWordWellFormed, Bool.and_eq_true, decide_eq_true_iff, decide_eq_true_iff]
  exact Iff.rfl

/-- The decoder on a well-formed raw word. -/
theorem decodeTableWord_of_wellFormed {nbits w : Nat} (h : rawWordWellFormed nbits w = true) :
    decodeTableWord nbits w
      = some (.decode ⟨BitVec.ofNat 8 w, BitVec.ofNat 8 (w / 2 ^ 8), BitVec.ofNat 8 (w / 2 ^ 16)⟩) := by
  simp only [decodeTableWord, h, if_true, rawBytes, decodeBytes, decodeWord, decodeAs, unpack_pack]

/-- Reading a word as a row and encoding again keeps every bit (R36). -/
@[simp] theorem encode_decodeAs (r : Row) (w : Word24) : encode (decodeAs r w) = w := by
  cases r <;> exact pack_unpack w

/-- The decoder on the encoder's bytes: the whole-block operation on the same triple (R36). -/
@[simp] theorem decodeBytes_encodeBytes (i : Instr) : decodeBytes (encodeBytes i) = .ok (.decode i.triple) := by
  simp only [encodeBytes, decodeBytes, decodeWord, decodeAs, unpack_pack]

end Sys2Proof
end

