-- ==== Sys2Proof/Laws/PerInstr.lean ====
section
/-! SUPPORT. Per-instruction families: RowRoundTrip says that an operation's word, read as the operation's own row,
gives the operation back, operand and all. -/

namespace Sys2Proof.Laws.RowRoundTrip

/-- The operation's word, read as its own row of the opcode table, is the operation. -/
def Statement (i : Instr) : Prop := i.wellFormed = true → decodeAs i.row (encode i) = i

theorem lane0 (t : Triple) : Statement (.lane0 t) := fun _ => congrArg Instr.lane0 (unpack_pack t)
theorem lane1 (t : Triple) : Statement (.lane1 t) := fun _ => congrArg Instr.lane1 (unpack_pack t)
theorem lane2 (t : Triple) : Statement (.lane2 t) := fun _ => congrArg Instr.lane2 (unpack_pack t)
theorem lane3 (t : Triple) : Statement (.lane3 t) := fun _ => congrArg Instr.lane3 (unpack_pack t)
theorem decode (t : Triple) : Statement (.decode t) := fun _ => congrArg Instr.decode (unpack_pack t)

end Sys2Proof.Laws.RowRoundTrip
end

