-- ==== Sys2Proof/Tests/Slice0.lean ====
section
/-! SUPPORT. The model's own tests. Expected values come from the spec: the words from the encoding strings of
spec/opcode_table.json, the results from the worked examples of 40_access_decode.md and the vectors V1 to V28 of
95_test_vectors.md. The theorems named witness_… show, for each obligation with hypotheses, inputs that meet
them. -/

namespace Sys2Proof.Tests

open Sys2Proof.Machine

/-- The next state, where there is one. -/
def after (o : Host.Outcome State Fault Refusal) : Option State :=
  match o with
  | .next s => some s
  | .fault _ => none
  | .refused _ => none

/-- A state that shows a triple. -/
def showing (t : Triple) : State := ⟨t.b0, t.b1, t.b2⟩

/-- The pairs a row delivers, with the triple then shown. -/
def delivers (r : Row) (o : Host.Outcome State Fault Refusal) : Option (Triple × List LaneResult) :=
  (after o).map fun u => (u.inputs, u.outputs.ofRow r)

/-- V1 of 95_test_vectors.md. -/
def v1 : Triple := ⟨0xFF#8, 0x07#8, 0x80#8⟩

/-- V16 of 95_test_vectors.md, the worked example of R41 to R44. -/
def v16 : Triple := ⟨0x12#8, 0x34#8, 0x56#8⟩

/-- V8 of 95_test_vectors.md, `ENC(4,2,1,3)`. -/
def v8 : Triple := ⟨0x5E#8, 0x13#8, 0xCA#8⟩

/-! ### Well-formedness: the only check there is, on raw words -/

theorem test_raw_word_of_25_bits_refused : rawWordWellFormed 25 0 = false := by decide
theorem test_raw_word_too_large_refused : rawWordWellFormed 24 0x1000000 = false := by decide
theorem test_raw_word_over_its_bits_refused : rawWordWellFormed 8 0x100 = false := by decide
theorem test_raw_word_largest_accepted : rawWordWellFormed 24 0xFFFFFF = true := by decide
theorem test_bad_raw_words_do_not_decode :
    decodeTableWord 25 0 = none ∧ decodeTableWord 24 0x1000000 = none := by decide

/-! ### Decoding: words written bit by bit from the encoding strings -/

/-- `nnnznnnynnnxnnnrnnnqnnnp` with z = x = q = 1 and y = r = p = 0: the triple `10 10 10`, code 5 of offset 0
(95_test_vectors.md section 2.1, the row `1 0 1`, `0 1 0`). -/
theorem test_decode_lane0_word :
    decodeAs .lane0 0b0001_0000_0001_0000_0001_0000#24 = .lane0 ⟨0x10#8, 0x10#8, 0x10#8⟩ := by decide
/-- `nnznnnynnnxnnnrnnnqnnnpn` with y, r, p set: triple B of 2.3 for offset 1, code 2, `02 02 02`. -/
theorem test_decode_lane1_word :
    decodeAs .lane1 0b0000_0010_0000_0010_0000_0010#24 = .lane1 ⟨0x02#8, 0x02#8, 0x02#8⟩ := by decide
/-- `nznnnynnnxnnnrnnnqnnnpnn` with z, y, x set: triple B of 2.3 for offset 2, code 7, `00 40 44`. -/
theorem test_decode_lane2_word :
    decodeAs .lane2 0b0100_0100_0100_0000_0000_0000#24 = .lane2 ⟨0x00#8, 0x40#8, 0x44#8⟩ := by decide
/-- `znnnynnnxnnnrnnnqnnnpnnn` with z, q, p set: triple B of 2.3 for offset 3, code 1, `88 00 80`. -/
theorem test_decode_lane3_word :
    decodeAs .lane3 0b1000_0000_0000_0000_1000_1000#24 = .lane3 ⟨0x88#8, 0x00#8, 0x80#8⟩ := by decide
/-- `zzzzyyyyxxxxrrrrqqqqpppp` with z = 8, y = 0, x = 0, r = 7, q = p = F: V1, `W = 0x8007FF`. -/
theorem test_decode_block_word :
    decodeTableWord 24 0b1000_0000_0000_0111_1111_1111 = some (.decode v1) := by decide
/-- In dump order (R22). -/
theorem test_decode_block_bytes : decodeBytes [0xFF#8, 0x07#8, 0x80#8] = .ok (.decode v1) := by rfl
theorem test_two_bytes_rejected : decodeBytes [0xFF#8, 0x07#8] = .error .tooFewBytes := by rfl
theorem test_four_bytes_rejected :
    decodeBytes [0xFF#8, 0x07#8, 0x80#8, 0x69#8] = .error .tooManyBytes := by rfl
theorem test_encode_block : encode (.decode v1) = 0x8007FF#24 := by decide

/-! ### The operations: at most two tests each, on one step -/

/-- `ABD.LANE0 12 34 56 -> 101/1` (R41). -/
theorem test_lane0 : delivers .lane0 (exec (.lane0 v16) (showing v1)) = some (v16, [⟨0b101#3, true⟩]) := by decide
/-- `A5 5A C3 -> 110/0` on offset 0 (V17): the direct copy is delivered though it is inconsistent. -/
theorem test_lane0_inconsistent :
    (after (exec (.lane0 ⟨0xA5#8, 0x5A#8, 0xC3#8⟩) (showing v1))).map (fun u => (u.control0, u.valid0))
      = some (0b110#3, false) := by decide
/-- `ABD.LANE1 12 34 56 -> 110/0` (R42). -/
theorem test_lane1 : delivers .lane1 (exec (.lane1 v16) (showing v1)) = some (v16, [⟨0b110#3, false⟩]) := by decide
/-- V8 on offset 1: `010/1`. -/
theorem test_lane1_consistent :
    (after (exec (.lane1 v8) (showing v1))).map (fun u => (u.control1, u.valid1)) = some (0b010#3, true) := by decide
/-- `ABD.LANE2 12 34 56 -> 011/0` (R43). -/
theorem test_lane2 : delivers .lane2 (exec (.lane2 v16) (showing v1)) = some (v16, [⟨0b011#3, false⟩]) := by decide
/-- V8 on offset 2: `001/1`. -/
theorem test_lane2_consistent :
    (after (exec (.lane2 v8) (showing v1))).map (fun u => (u.control2, u.valid2)) = some (0b001#3, true) := by decide
/-- `ABD.LANE3 12 34 56 -> 000/0` (R44). -/
theorem test_lane3 : delivers .lane3 (exec (.lane3 v16) (showing v1)) = some (v16, [⟨0b000#3, false⟩]) := by decide
/-- `ABD.LANE3 FF 07 80 -> 001/1` (R40). -/
theorem test_lane3_consistent :
    (after (exec (.lane3 v1) (showing v16))).map (fun u => (u.control3, u.valid3)) = some (0b001#3, true) := by decide
/-- `ABD.DECODE 3F 05 AC`, V6: a different code in every lane, `CTRL = 0x688`, `VALID = 0xF`. -/
theorem test_decode_four_codes :
    (after (exec (.decode ⟨0x3F#8, 0x05#8, 0xAC#8⟩) (showing v1))).map (fun u => (u.outputs.CTRL, u.outputs.VALID))
      = some (0x688#12, 0xF#4) := by decide
/-- `ABD.DECODE 12 34 56`, V16, by a step: `CTRL = 0x0F5`, `VALID = 0x1`. -/
theorem test_step_mixed_validity :
    (after (step (showing v16))).map (fun u => (u.outputs.CTRL, u.outputs.VALID, u.inputs))
      = some (0x0F5#12, 0x1#4, v16) := by decide
/-- Before any step: V1 presented over V16 is reported at once (R11, R19). -/
theorem test_outputs_follow_before_any_step :
    (((showing v16).present v1).outputs.CTRL, ((showing v16).present v1).outputs.VALID) = (0x200#12, 0xF#4) := by decide
/-- The first step after reset, with V1 presented as a raw word (P1). -/
theorem test_first_step_after_reset :
    (after (step (State.reset.withFetchWord 24 0x8007FF))).map (fun u => (u.outputs.CTRL, u.outputs.VALID))
      = some (0x200#12, 0xF#4) := by decide
/-- P3 of 95_test_vectors.md, steps 0 to 2: a bit changed in lane 1, then its partner. -/
theorem test_trace_of_bit_changes :
    (trace [.triple v8, .b1 0x33#8, .b0 0x5C#8] State.reset).map (fun os => os.map fun o => (o.lane1, o.VALID))
      = some [(⟨0b010#3, true⟩, 0xF#4), (⟨0b110#3, false⟩, 0xD#4), (⟨0b110#3, true⟩, 0xF#4)] := by decide
/-- R38's example. -/
theorem test_text :
    opText (.decode v1) State.reset = some "ABD.DECODE FF 07 80 -> 000/1 000/1 000/1 001/1" := by decide

/-! ### Witnesses of the obligations' hypotheses -/

theorem witness_StepRunsTheDecodedInstruction :
    decodeBytes [(showing v1).b0, (showing v1).b1, (showing v1).b2] = .ok (.decode v1)
    ∧ (Instr.decode v1).wellFormed = true := ⟨rfl, rfl⟩
theorem witness_OutputsFollowTheInputsAtEveryInstant : (showing ⟨0, 0, 0⟩).inputs = State.reset.inputs := by decide
/-- V1 is valid on offset 3, and on offset 3 of V2 the pair of bit 2 is equal. -/
theorem witness_NoOutputOutlivesItsInputs :
    ((showing v1).out 3).valid = true ∧ (0x00#8).getLsbD (3 + 4) = (0x00#8).getLsbD 3 := by decide
theorem witness_StepOutputsFollowThePresentInputs : (showing ⟨0, 0, 0⟩).inputs = State.reset.inputs := by decide
theorem witness_EveryStepKeepsThePortsSettled :
    Settled State.reset ∧ step State.reset = .next State.reset := ⟨by decide, by rfl⟩
theorem witness_PackedWordHoldsTheBytesFirstByteLowest : 0 < 8 ∧ 7 < 8 := by decide
theorem witness_DecodingAndEncodingAgree :
    (Instr.lane0 v16).wellFormed = true ∧ (Instr.decode v16).wellFormed = true := by decide
theorem witness_EveryTableWordDecodesByItsBytes :
    0xFFFFFF < 2 ^ 24 ∧ (2 ^ 24 ≤ 0x1000000 ∨ 24 < 24) ∧ (2 ^ 25 ≤ 0 ∨ 24 < 25) := by decide
theorem witness_OnlyThreeBytesDecode :
    [0xFF#8, 0x07#8].length < 3 ∧ 3 < [0xFF#8, 0x07#8, 0x80#8, 0x69#8].length
    ∧ [0xFF#8, 0x07#8, 0x80#8].length = 3 := by decide
theorem witness_AllFiveOperationsAreComputedAtOnce :
    0x8007FF#24 &&& Row.reads .lane0 = 0x80071F#24 &&& Row.reads .lane0 ∧ 0x8007FF#24 ≠ 0x80071F#24 := by decide
theorem witness_NoInputIsRefused : 0 < 2 ^ 24 ∧ 0xFFFFFF < 2 ^ 24 := by decide
theorem witness_LaneDrivesItsPair_example : v16 = ⟨0x12#8, 0x34#8, 0x56#8⟩ := by decide
theorem witness_DecodeDeliversTheFourLanes : ([3, 1, 0, 2] : List Offset).Nodup := by decide
/-- V1 on the ports and V13 (`7F 07 88`) as the operand: they agree on the bits of lanes 0, 1 and 2. -/
theorem witness_OperationsLeaveEverythingElse :
    (Instr.lane0 v1).triple = (showing v1).inputs
    ∧ (∀ n : Fin 24, bitLane n = 2 →
        (encode (.lane3 ⟨0x7F#8, 0x07#8, 0x88#8⟩)).getLsbD n.val = (showing v1).fetchWord.getLsbD n.val)
    ∧ v1 ≠ ⟨0x7F#8, 0x07#8, 0x88#8⟩ := by decide
theorem witness_ControlStaysInRangeAndEveryPairOccurs :
    exec (.lane3 v1) State.reset = .next (showing v1) := by rfl
theorem witness_DisagreeingCopiesAreReportedNotCorrected :
    (control 1 v16).setWidth 8 ≠ (0x07#8 &&& ~~~ ((inverse 1 v16).setWidth 8)) := by decide
theorem witness_ConsistentlyStoredCodesAreDelivered :
    v1.b1.getLsbD (3 + 4) = (0b001#3).getLsbD 2 ∧ v1.b2.getLsbD 3 = (0b001#3).getLsbD 1
    ∧ v1.b2.getLsbD (3 + 4) = (0b001#3).getLsbD 0 ∧ v1.b0.getLsbD 3 = !(0b001#3).getLsbD 2
    ∧ v1.b0.getLsbD (3 + 4) = !(0b001#3).getLsbD 1 ∧ v1.b1.getLsbD 3 = !(0b001#3).getLsbD 0 := by decide
theorem witness_ComplementWidthDoesNotMatter : 3 ≤ 3 ∧ 3 ≤ 32 := by decide
theorem witness_LanesReadDisjointBitsAndNoneIsIgnored :
    (∀ n : Fin 24, bitLane n = 3 → (pack v1).getLsbD n.val = (pack ⟨0x88#8, 0x00#8, 0x80#8⟩).getLsbD n.val)
    ∧ v1 ≠ ⟨0x88#8, 0x00#8, 0x80#8⟩ := by decide
/-- Each clause of the single-bit law: (b) from V1, (c) from V1 with `W[0]` inverted, and two
consistent codings of lane 0: V1, and V1 with `W[12]` and `W[0]` inverted (95_test_vectors.md section 2.4). -/
theorem witness_SingleBitChangesAreDetected :
    (0 : Offset) ≠ bitLane 23 ∧ valid 3 v1 = true ∧ valid 0 ⟨0xFE#8, 0x07#8, 0x80#8⟩ = false
    ∧ valid 0 v1 = true ∧ valid 0 ⟨0xFE#8, 0x17#8, 0x80#8⟩ = true
    ∧ bitLane 12 = 0 ∧ (pack v1).getLsbD 12 ≠ (pack ⟨0xFE#8, 0x17#8, 0x80#8⟩).getLsbD 12 := by decide
theorem witness_ReferenceEncoderAndDecodeAreInverse :
    exec (.decode v1) State.reset = .next (showing v1)
    ∧ (showing v1).outputs.VALID = 0xF#4 := ⟨by rfl, by decide⟩
theorem witness_ValidTriplesAreCounted : 0 ≤ 4 ∧ 4 ≤ 4 := by decide
theorem witness_OrderOfTriplesDoesNotMatter : [v1, v8, v16].Perm [v8, v16, v1] := by decide
theorem witness_InconsistencyIsNotLatched :
    (State.reset.out 3).valid = false ∧ valid 3 v1 = true := by decide
theorem witness_ChunkTripleIsBytes38To40 :
    (List.replicate 38 0x00#8).length = 38 ∧ 41 ≠ 38 ∧ 41 ≠ 39 ∧ 41 ≠ 40 := by decide

end Sys2Proof.Tests
end

