-- ==== Sys2Proof/Proofs/Scope.lean ====
section
/-! The place of the triple in a sector chunk (00_scope.md, R7): `chunkTriple` by the three positions it reads. -/
namespace Sys2Proof.Machine

/-- The bytes at 38, 39 and 40, where they exist, are the triple, in that order (R7). -/
theorem chunkTriple_eq_some {chunk : List Byte} {x y z : Byte}
    (h38 : chunk[38]? = some x) (h39 : chunk[39]? = some y) (h40 : chunk[40]? = some z) :
    chunkTriple chunk = some ⟨x, y, z⟩ := by
  simp only [chunkTriple, h38, h39, h40]

/-- A chunk's triple depends on its positions 38, 39 and 40 alone, whether or not the chunk reaches them. -/
theorem chunkTriple_congr {chunk chunk' : List Byte}
    (h38 : chunk[38]? = chunk'[38]?) (h39 : chunk[39]? = chunk'[39]?) (h40 : chunk[40]? = chunk'[40]?) :
    chunkTriple chunk = chunkTriple chunk' := by
  simp only [chunkTriple, h38, h39, h40]

/-- Three bytes with 38 bytes before them are the chunk's triple, whatever follows. -/
theorem chunkTriple_append {before : List Byte} (after : List Byte) (x y z : Byte) (hlen : before.length = 38) :
    chunkTriple (before ++ x :: y :: z :: after) = some ⟨x, y, z⟩ := by
  have read (k : Nat) :
      (before ++ x :: y :: z :: after)[38 + k]? = (x :: y :: z :: after)[k]? := by
    rw [List.getElem?_append_right (by omega), hlen, Nat.add_sub_cancel_left]
  exact chunkTriple_eq_some (read 0) (read 1) (read 2)

/-- Writing a byte at another position leaves the chunk's triple. -/
theorem chunkTriple_set_of_ne (chunk : List Byte) {n : Nat} (v : Byte)
    (h38 : n ≠ 38) (h39 : n ≠ 39) (h40 : n ≠ 40) :
    chunkTriple (chunk.set n v) = chunkTriple chunk :=
  chunkTriple_congr (List.getElem?_set_ne h38) (List.getElem?_set_ne h39) (List.getElem?_set_ne h40)

end Sys2Proof.Machine

namespace Sys2Proof.Proofs
open Sys2Proof.Machine

/-- Settles O45: the three bytes after 38 others are read in order, and a write elsewhere changes none of them. -/
theorem chunkTripleIsBytes38To40 : Obligations.ChunkTripleIsBytes38To40 := by
  unfold Obligations.ChunkTripleIsBytes38To40
  constructor
  · intro before after x y z hlen
    exact chunkTriple_append after x y z hlen
  · intro chunk n v h38 h39 h40
    exact chunkTriple_set_of_ne chunk v h38 h39 h40

end Sys2Proof.Proofs
end

/-! The encoding of the triple (30_encoding.md, R30 to R36): the packed word, the six stored bits of a lane, the packed
outputs, and what each row of the opcode table reads. -/

namespace Sys2Proof

/-- The three bytes in the packed word, each from its own bit 0 upwards (R31). -/
theorem pack_getLsbD_bytes (t : Triple) {p : Nat} (hp : p < 8) :
    (pack t).getLsbD p = t.b0.getLsbD p ∧ (pack t).getLsbD (8 + p) = t.b1.getLsbD p
    ∧ (pack t).getLsbD (16 + p) = t.b2.getLsbD p := by
  refine ⟨?_, ?_, ?_⟩
  · rw [pack_getLsbD, if_pos hp]
  · rw [pack_getLsbD, if_neg (by omega), if_pos (by omega), Nat.add_sub_cancel_left]
  · rw [pack_getLsbD, if_neg (by omega), if_neg (by omega), Nat.add_sub_cancel_left]

/-- No row has an opcode field: every word matches all five (R36). -/
theorem matchingRows_eq (w : Word24) : matchingRows w = [.lane0, .lane1, .lane2, .lane3, .decode] := by
  simp [matchingRows, opcodeTable]

@[simp] theorem decodeAs_triple (r : Row) (w : Word24) : (decodeAs r w).triple = unpack w := by
  cases r <;> rfl

namespace Machine

/-- A word read as any row and executed: its three bytes are then on the input ports. -/
theorem exec_decodeAs (r : Row) (w : Word24) (s : State) : exec (decodeAs r w) s = .next (s.present (unpack w)) := by
  rw [exec_eq, decodeAs_triple]

/-- The present inputs read as any row: the operation leaves the state as it is (R24). -/
theorem exec_decodeAs_fetchWord (r : Row) (s : State) : exec (decodeAs r s.fetchWord) s = .next s := by
  rw [exec_decodeAs, State.fetchWord, unpack_pack, State.present_inputs]

/-! ### What a row reads -/

/-- The row reads all six bits of lane `k`, which are every fourth bit of `W` from bit `k` (R53). -/
def ReadsLane (r : Row) (k : Offset) : Prop := ∀ m < 6, r.reads.getLsbD (4 * m + k.val) = true

theorem lane0_readsLane : ReadsLane .lane0 0 := by unfold ReadsLane; decide
theorem lane1_readsLane : ReadsLane .lane1 1 := by unfold ReadsLane; decide
theorem lane2_readsLane : ReadsLane .lane2 2 := by unfold ReadsLane; decide
theorem lane3_readsLane : ReadsLane .lane3 3 := by unfold ReadsLane; decide
theorem decode_readsLane (k : Offset) : ReadsLane .decode k := by unfold ReadsLane; revert k; decide

/-- Words that agree on what a row reads have the same pair on every lane the row reads. -/
theorem lane_unpack_congr {r : Row} {k : Offset} {w w' : Word24} (hreads : ReadsLane r k)
    (h : w &&& r.reads = w' &&& r.reads) : lane k (unpack w) = lane k (unpack w') := by
  apply lane_congr
  intro m hm
  have hbit := congrArg (BitVec.getLsbD · (4 * m + k.val)) h
  simpa [hreads m hm] using hbit

/-- A row's operation depends only on the bits the row reads (R36). -/
theorem ofRow_block_congr {r : Row} {w w' : Word24} (h : w &&& r.reads = w' &&& r.reads) :
    (block (unpack w)).ofRow r = (block (unpack w')).ofRow r := by
  cases r with
  | lane0 => exact congrArg ([·]) (lane_unpack_congr lane0_readsLane h)
  | lane1 => exact congrArg ([·]) (lane_unpack_congr lane1_readsLane h)
  | lane2 => exact congrArg ([·]) (lane_unpack_congr lane2_readsLane h)
  | lane3 => exact congrArg ([·]) (lane_unpack_congr lane3_readsLane h)
  | decode => simp only [block, lane_unpack_congr (decode_readsLane _) h]

/-! ### Codes, as numbers and in the packed outputs -/

/-- A code is the unsigned number of its three bits, bit 2 the most significant. -/
theorem code_toNat (c : Code) :
    c.toNat = 4 * (c.getLsbD 2).toNat + 2 * (c.getLsbD 1).toNat + (c.getLsbD 0).toNat := by
  revert c; decide

/-- `control` as a number (R32). -/
theorem control_toNat (k : Offset) (t : Triple) :
    (control k t).toNat = 4 * (t.b1.getLsbD (k.val + 4)).toNat + 2 * (t.b2.getLsbD k.val).toNat
      + (t.b2.getLsbD (k.val + 4)).toNat := by
  rw [code_toNat, control_bit2, control_bit1, control_bit0]

/-- `inverse` as a number (R33). -/
theorem inverse_toNat (k : Offset) (t : Triple) :
    (inverse k t).toNat = 4 * (t.b0.getLsbD k.val).toNat + 2 * (t.b0.getLsbD (k.val + 4)).toNat
      + (t.b1.getLsbD k.val).toNat := by
  rw [code_toNat, inverse_bit2, inverse_bit1, inverse_bit0]

/-- A lane is consistent exactly when its three redundancy pairs are pairs of complements (R34). -/
theorem valid_iff_complements (k : Offset) (t : Triple) :
    valid k t = true ↔ t.b1.getLsbD (k.val + 4) = !t.b0.getLsbD k.val
      ∧ t.b2.getLsbD k.val = !t.b0.getLsbD (k.val + 4)
      ∧ t.b2.getLsbD (k.val + 4) = !t.b1.getLsbD k.val := by
  have xor_iff (x y : Bool) : (x ^^ y) = true ↔ x = !y := by revert x y; decide
  rw [valid_eq_xor, Bool.and_eq_true, Bool.and_eq_true, xor_iff, xor_iff, xor_iff, and_assoc]

/-- `CTRL[3k+2:3k] = controlk` (R35). -/
theorem Outputs.CTRL_extractLsb' (o : Outputs) (k : Offset) :
    o.CTRL.extractLsb' (3 * k.val) 3 = (o.get k).control := by
  apply BitVec.eq_of_getLsbD_eq
  intro i hi
  rw [BitVec.getLsbD_extractLsb', decide_eq_true hi, Bool.true_and, CTRL]
  simp only [BitVec.getLsbD_append]
  fin_cases k
  · simp [hi, Outputs.get]
  · simp [show ¬ 3 + i < 3 by omega, hi, Outputs.get]
  · simp [show ¬ 6 + i < 3 by omega, show 6 + i - 3 = 3 + i by omega, hi, Outputs.get]
  · simp [show ¬ 9 + i < 3 by omega, show 9 + i - 3 = 6 + i by omega, show ¬ 6 + i < 3 by omega,
      show 6 + i - 3 = 3 + i by omega, Outputs.get]

/-- The packed control output and the four ports (R35). -/
theorem State.CTRL_outputs (s : State) :
    s.outputs.CTRL = s.control3 ++ s.control2 ++ s.control1 ++ s.control0 := rfl

/-- The packed validity output and the four ports (R35). -/
theorem State.VALID_outputs (s : State) :
    s.outputs.VALID
      = BitVec.ofBool s.valid3 ++ BitVec.ofBool s.valid2 ++ BitVec.ofBool s.valid1 ++ BitVec.ofBool s.valid0 := rfl

end Machine
end Sys2Proof

namespace Sys2Proof.Proofs
open Sys2Proof.Machine

/-- Settles O10: the bits of the word by byte, and the word as a number. -/
theorem packedWordHoldsTheBytesFirstByteLowest : Obligations.PackedWordHoldsTheBytesFirstByteLowest := by
  unfold Obligations.PackedWordHoldsTheBytesFirstByteLowest
  refine ⟨?bits, toNat_pack, ?ports, ?scenario⟩
  case bits => exact fun t p hp => pack_getLsbD_bytes t hp
  case ports => exact fun s => rfl
  case scenario => decide

/-- Settles O15: every row leaves the same state as a step, and delivers lanes whose six bits it reads. -/
theorem allFiveOperationsAreComputedAtOnce : Obligations.AllFiveOperationsAreComputedAtOnce := by
  unfold Obligations.AllFiveOperationsAreComputedAtOnce
  refine ⟨matchingRows_eq, ?atOnce, ?readBitsOnly, ?_, ?_, ?_, ?_, ?_, ?_, ?_⟩
  case atOnce =>
    intro s
    refine ⟨s, step_eq s, ?_, exec_decodeAs_fetchWord .decode s⟩
    intro k
    exact ⟨s, exec_decodeAs_fetchWord _ s, rfl⟩
  case readBitsOnly =>
    intro r w w' s h
    exact ⟨_, _, exec_decodeAs r w s, exec_decodeAs r w' s, ofRow_block_congr h⟩
  -- what is left are the closed facts of the table: read masks, match, mask and names
  all_goals decide

/-- Settles O25: the control bits are the direct copy, and the packed outputs are read at offset `k`'s place. -/
theorem packedOutputsHoldOffsetZeroLowest : Obligations.PackedOutputsHoldOffsetZeroLowest := by
  unfold Obligations.PackedOutputsHoldOffsetZeroLowest
  refine ⟨?_, State.CTRL_outputs, State.VALID_outputs⟩
  intro t s
  refine ⟨s.present t, exec_decode t s, fun k => ?_⟩
  rw [← State.get_outputs, Outputs.VALID_getLsbD, Outputs.CTRL_extractLsb', State.outputs_present, get_block]
  exact ⟨control_bit2 k t, control_bit1 k t, control_bit0 k t, rfl, rfl⟩

/-- Settles O26: the stored bits are those of `control` and `inverse`, and validity compares them pair by pair. -/
theorem everyStoredBitHoldsItsCodeBit : Obligations.EveryStoredBitHoldsItsCodeBit := by
  unfold Obligations.EveryStoredBitHoldsItsCodeBit
  intro k t s
  exact ⟨s.present t, inverse k t, exec_laneInstr t s k,
    (control_bit2 k t).symm, (control_bit1 k t).symm, (control_bit0 k t).symm,
    (inverse_bit2 k t).symm, (inverse_bit1 k t).symm, (inverse_bit0 k t).symm,
    rfl, valid_iff_complements k t⟩

/-- Settles O27: both copies of a code, bit by bit and as the number of their three bits. -/
theorem controlAndInverseAsNumbers : Obligations.ControlAndInverseAsNumbers := by
  unfold Obligations.ControlAndInverseAsNumbers
  intro k t s
  exact ⟨s.present t, exec_laneInstr t s k,
    control_bit2 k t, control_bit1 k t, control_bit0 k t, control_toNat k t,
    inverse_bit2 k t, inverse_bit1 k t, inverse_bit0 k t, inverse_toNat k t⟩

end Sys2Proof.Proofs

/-! The four lanes of a triple (40_access_decode.md, R40 to R56). The 24 bits are four pairs of codes, `control` and
`inverse` of each offset, and nothing else: a triple is these eight codes, and a lane is consistent exactly when its
`inverse` is the complement of its `control`. The properties, laws and counts below are read off this. -/

namespace Sys2Proof.Machine

/-! ### Codes and nibbles, bit by bit -/

/-- The bits of a code, numbered as the redundancy pairs are: pair `m` holds bit `2 - m` (R34). -/
theorem code_eq_of_pairBits {c d : Code} (h : ∀ m < 3, c.getLsbD (2 - m) = d.getLsbD (2 - m)) : c = d :=
  code_eq_of_bits (h 0 (by decide)) (h 1 (by decide)) (h 2 (by decide))

theorem not_code_getLsbD {c : Code} {i : Nat} (hi : i < 3) : (~~~ c).getLsbD i = !c.getLsbD i := by
  rw [BitVec.getLsbD_not, decide_eq_true hi, Bool.true_and]

/-- A nibble holds one bit of each offset (R30). -/
theorem nibble_eq_iff {x y : Nibble} : x = y ↔ ∀ k : Offset, x.getLsbD k.val = y.getLsbD k.val :=
  ⟨fun h _ => h ▸ rfl, fun h => BitVec.eq_of_getLsbD_eq fun i hi => h ⟨i, hi⟩⟩

/-- The low nibble of a byte holds bit `k` of the byte at offset `k`. -/
theorem lowNibble_getLsbD (v : Byte) (k : Offset) : (v.extractLsb' 0 4).getLsbD k.val = v.getLsbD k.val := by
  rw [BitVec.getLsbD_extractLsb', decide_eq_true k.isLt, Bool.true_and, Nat.zero_add]

/-- The high nibble of a byte holds bit `k + 4` of the byte at offset `k`. -/
theorem highNibble_getLsbD (v : Byte) (k : Offset) : (v.extractLsb' 4 4).getLsbD k.val = v.getLsbD (k.val + 4) := by
  rw [BitVec.getLsbD_extractLsb', decide_eq_true k.isLt, Bool.true_and, Nat.add_comm]

/-- Pair `m` of the lane of offset `k` in the packed word: `control` bit `2 - m` is `W[12 + 4m + k]` and `inverse` bit
`2 - m` is `W[4m + k]` (R34, R53). -/
theorem pairBits_unpack (w : Word24) (k : Offset) {m : Nat} (hm : m < 3) :
    (control k (unpack w)).getLsbD (2 - m) = w.getLsbD (12 + 4 * m + k.val)
    ∧ (inverse k (unpack w)).getLsbD (2 - m) = w.getLsbD (4 * m + k.val) := by
  obtain ⟨i2, i1, i0, c2, c1, c0⟩ := lane_bits_of_pack k (unpack w)
  rw [pack_unpack] at i2 i1 i0 c2 c1 c0
  interval_cases m
  · exact ⟨(control_bit2 ..).trans c2, by simpa using (inverse_bit2 ..).trans i2⟩
  · exact ⟨(control_bit1 ..).trans c1, (inverse_bit1 ..).trans i1⟩
  · exact ⟨(control_bit0 ..).trans c0, (inverse_bit0 ..).trans i0⟩

/-! ### Consistency: the inverted copy is the complement -/

/-- A lane is consistent exactly when its inverted copy is the complement of its direct copy (R46). -/
theorem valid_iff_inverse_eq_not (k : Offset) (t : Triple) : valid k t = true ↔ inverse k t = ~~~ control k t := by
  rw [valid, validFormula_eq_not3, beq_iff_eq, eq_comm, BitVec.not_eq_comm]

/-- What a consistently stored code delivers (R50). -/
theorem lane_eq_of_codes {k : Offset} {t : Triple} {c : Code} (hc : control k t = c) (hi : inverse k t = ~~~ c) :
    lane k t = ⟨c, true⟩ := by
  have hv : valid k t = true := by rw [valid_iff_inverse_eq_not, hi, hc]
  rw [lane, hc, hv]

/-- Complementing both copies leaves their agreement (R54). -/
theorem validFormula_not_not (c i : Code) : validFormula (~~~ c) (~~~ i) = validFormula c i := by
  revert c i; decide

/-! ### A triple is its eight codes -/

/-- The two copies of the code of each offset. -/
def laneCodes (w : Word24) (k : Offset) : Code × Code := (control k (unpack w), inverse k (unpack w))

/-- Every bit of the word is a bit of one of the eight codes (R53). -/
theorem laneCodes_injective : Function.Injective laneCodes := by
  intro w w' h
  have hpair (k : Offset) (m : Nat) (hm : m < 3) :
      w.getLsbD (12 + 4 * m + k.val) = w'.getLsbD (12 + 4 * m + k.val)
      ∧ w.getLsbD (4 * m + k.val) = w'.getLsbD (4 * m + k.val) := by
    obtain ⟨hc, hi⟩ := Prod.ext_iff.mp (congrFun h k)
    simp only [laneCodes] at hc hi
    rw [← (pairBits_unpack w k hm).1, ← (pairBits_unpack w k hm).2, ← (pairBits_unpack w' k hm).1,
      ← (pairBits_unpack w' k hm).2, hc, hi]
    exact ⟨rfl, rfl⟩
  apply BitVec.eq_of_getLsbD_eq
  intro n hn
  by_cases h12 : n < 12
  · have := (hpair ⟨n % 4, by omega⟩ (n / 4) (by omega)).2
    rwa [show 4 * (n / 4) + n % 4 = n by omega] at this
  · have := (hpair ⟨n % 4, by omega⟩ ((n - 12) / 4) (by omega)).1
    rwa [show 12 + 4 * ((n - 12) / 4) + n % 4 = n by omega] at this

theorem card_bitVec (n : Nat) : Fintype.card (BitVec n) = 2 ^ n := by
  rw [← FinEnum.card_eq_fintypeCard, FinEnum.card_bitVec]

/-- There are as many words as choices of eight codes, so every choice is stored by exactly one word (R55). -/
theorem laneCodes_bijective : Function.Bijective laneCodes := by
  refine (Fintype.bijective_iff_injective_and_card _).mpr ⟨laneCodes_injective, ?_⟩
  rw [Fintype.card_fun, Fintype.card_prod, Fintype.card_fin, card_bitVec, card_bitVec]
  norm_num

/-- Triples with the same codes on all offsets are one triple. -/
theorem triple_eq_of_codes {t u : Triple} (hc : ∀ k, control k t = control k u)
    (hi : ∀ k, inverse k t = inverse k u) : t = u := by
  apply pack_injective
  apply laneCodes_injective
  funext k
  simp only [laneCodes, unpack_pack, hc, hi]

/-- Any choice of the eight codes is stored by some triple (R48, R55). -/
theorem exists_triple_of_codes (f : Offset → Code × Code) :
    ∃ t : Triple, ∀ k, control k t = (f k).1 ∧ inverse k t = (f k).2 := by
  obtain ⟨w, hw⟩ := laneCodes_bijective.surjective f
  exact ⟨unpack w, fun k => Prod.ext_iff.mp (congrFun hw k)⟩

/-! ### The reference encoder -/

/-- Bit `k` of the nibble of code bits is the code of offset `k`'s (R56). -/
theorem codeNibble_getLsbD (i : Nat) (c : Offset → Code) (k : Offset) :
    (codeNibble i (c 0) (c 1) (c 2) (c 3)).getLsbD k.val = (c k).getLsbD i := by
  obtain ⟨h0, h1, h2, h3⟩ :=
    nibbleOf_getLsbD ((c 0).getLsbD i) ((c 1).getLsbD i) ((c 2).getLsbD i) ((c 3).getLsbD i)
  fin_cases k
  · exact h0
  · exact h1
  · exact h2
  · exact h3

theorem NOT4_getLsbD (v : Nibble) (k : Offset) : (NOT4 v).getLsbD k.val = !v.getLsbD k.val := by
  revert v k; decide

/-- The bits of a byte made of two nibbles, by offset. -/
theorem nibbles_getLsbD (hi lo : Nibble) (k : Offset) :
    (hi ++ lo : Byte).getLsbD k.val = lo.getLsbD k.val
    ∧ (hi ++ lo : Byte).getLsbD (k.val + 4) = hi.getLsbD k.val := by
  rw [BitVec.getLsbD_append, BitVec.getLsbD_append, if_pos k.isLt, if_neg (by omega), Nat.add_sub_cancel]
  exact ⟨rfl, rfl⟩

/-- `ENC` stores each code at its offset, directly and complemented (R56). -/
theorem codes_ENC (c : Offset → Code) (k : Offset) :
    control k (ENC (c 0) (c 1) (c 2) (c 3)) = c k ∧ inverse k (ENC (c 0) (c 1) (c 2) (c 3)) = ~~~ c k := by
  constructor
  · apply code_eq_of_bits
    · rw [control_bit2, ENC, (nibbles_getLsbD ..).2, codeNibble_getLsbD]
    · rw [control_bit1, ENC, (nibbles_getLsbD ..).1, codeNibble_getLsbD]
    · rw [control_bit0, ENC, (nibbles_getLsbD ..).2, codeNibble_getLsbD]
  · apply code_eq_of_bits
    · rw [inverse_bit2, ENC, (nibbles_getLsbD ..).1, NOT4_getLsbD, codeNibble_getLsbD, not_code_getLsbD (by decide)]
    · rw [inverse_bit1, ENC, (nibbles_getLsbD ..).2, NOT4_getLsbD, codeNibble_getLsbD, not_code_getLsbD (by decide)]
    · rw [inverse_bit0, ENC, (nibbles_getLsbD ..).1, NOT4_getLsbD, codeNibble_getLsbD, not_code_getLsbD (by decide)]

/-- Decoding `ENC` delivers the code of each offset as valid (R56). -/
theorem lane_ENC (c : Offset → Code) (k : Offset) : lane k (ENC (c 0) (c 1) (c 2) (c 3)) = ⟨c k, true⟩ :=
  lane_eq_of_codes (codes_ENC c k).1 (codes_ENC c k).2

theorem block_ENC (c0 c1 c2 c3 : Code) :
    block (ENC c0 c1 c2 c3) = ⟨⟨c0, true⟩, ⟨c1, true⟩, ⟨c2, true⟩, ⟨c3, true⟩⟩ := by
  have h := lane_ENC ![c0, c1, c2, c3]
  exact congr (congr (congr (congrArg Outputs.mk (h 0)) (h 1)) (h 2)) (h 3)

/-- Encoding the codes of a well-formed triple gives the triple back (R56). -/
theorem ENC_control_of_wellFormed {t : Triple} (h : tripleWellFormed t = true) :
    ENC (control 0 t) (control 1 t) (control 2 t) (control 3 t) = t := by
  have hvalid := (tripleWellFormed_iff t).mp h
  have hcodes := codes_ENC fun k => control k t
  apply triple_eq_of_codes
  · exact fun k => (hcodes k).1
  · intro k
    rw [(hcodes k).2, (valid_iff_inverse_eq_not k t).mp (hvalid k)]

/-- Two nibbles are complements exactly when they are at every offset. -/
theorem eq_NOT4_iff {x y : Nibble} : x = NOT4 y ↔ ∀ k : Offset, y.getLsbD k.val = !x.getLsbD k.val := by
  rw [nibble_eq_iff]
  refine forall_congr' fun k => ?_
  rw [NOT4_getLsbD, Bool.eq_not, Bool.eq_not, ne_comm]

/-- The well-formed triples by their nibbles (R56). -/
theorem tripleWellFormed_iff_nibbles (t : Triple) : tripleWellFormed t = true ↔
    t.b0.extractLsb' 0 4 = NOT4 (t.b1.extractLsb' 4 4) ∧ t.b0.extractLsb' 4 4 = NOT4 (t.b2.extractLsb' 0 4)
    ∧ t.b1.extractLsb' 0 4 = NOT4 (t.b2.extractLsb' 4 4) := by
  simp only [tripleWellFormed_iff, valid_iff_complements, eq_NOT4_iff, lowNibble_getLsbD, highNibble_getLsbD,
    forall_and]

end Sys2Proof.Machine

namespace Sys2Proof.Proofs
open Sys2Proof.Machine

/-- Settles O38: `ENC` stores every code with its complement, and a well-formed triple is determined by its controls. -/
theorem referenceEncoderAndDecodeAreInverse : Obligations.ReferenceEncoderAndDecodeAreInverse := by
  unfold Obligations.ReferenceEncoderAndDecodeAreInverse
  refine ⟨?decodeEnc, ?encDecode, tripleWellFormed_iff_nibbles, ?scenario⟩
  case decodeEnc =>
    intro c0 c1 c2 c3 s
    exact ⟨s.present _, exec_decode _ s, block_ENC c0 c1 c2 c3⟩
  case encDecode =>
    intro t s u hexec hvalid
    obtain rfl : s.present t = u := by simpa using hexec
    exact ENC_control_of_wellFormed (beq_iff_eq.mpr hvalid)
  case scenario => decide

end Sys2Proof.Proofs

/-! The five operations (R40 to R45) and the properties of their results (R46 to R52). -/

namespace Sys2Proof.Machine

/-! ### One lane, from the bits of the triple -/

/-- R41 to R44 for offset `k`: the bits of both copies, in the bytes and in the packed word, both forms of validity, and
the pair of the worked example `12 34 56`. -/
theorem lane_pair_bits (k : Offset) {c : Code} {v : Bool} (hex : lane k ⟨0x12#8, 0x34#8, 0x56#8⟩ = ⟨c, v⟩)
    (t : Triple) :
    (control k t).getLsbD 2 = t.b1.getLsbD (k.val + 4) ∧ t.b1.getLsbD (k.val + 4) = (pack t).getLsbD (12 + k.val)
    ∧ (control k t).getLsbD 1 = t.b2.getLsbD k.val ∧ t.b2.getLsbD k.val = (pack t).getLsbD (16 + k.val)
    ∧ (control k t).getLsbD 0 = t.b2.getLsbD (k.val + 4) ∧ t.b2.getLsbD (k.val + 4) = (pack t).getLsbD (20 + k.val)
    ∧ (inverse k t).getLsbD 2 = t.b0.getLsbD k.val ∧ t.b0.getLsbD k.val = (pack t).getLsbD k.val
    ∧ (inverse k t).getLsbD 1 = t.b0.getLsbD (k.val + 4) ∧ t.b0.getLsbD (k.val + 4) = (pack t).getLsbD (4 + k.val)
    ∧ (inverse k t).getLsbD 0 = t.b1.getLsbD k.val ∧ t.b1.getLsbD k.val = (pack t).getLsbD (8 + k.val)
    ∧ valid k t = ((control k t).setWidth 8 == (0x07#8 &&& ~~~ ((inverse k t).setWidth 8)))
    ∧ valid k t = ((t.b1.getLsbD (k.val + 4) ^^ t.b0.getLsbD k.val) && (t.b2.getLsbD k.val ^^ t.b0.getLsbD (k.val + 4))
        && (t.b2.getLsbD (k.val + 4) ^^ t.b1.getLsbD k.val))
    ∧ (t = ⟨0x12#8, 0x34#8, 0x56#8⟩ → control k t = c ∧ valid k t = v) := by
  obtain ⟨i2, i1, i0, c2, c1, c0⟩ := lane_bits_of_pack k t
  refine ⟨control_bit2 k t, c2, control_bit1 k t, c1, control_bit0 k t, c0, inverse_bit2 k t, i2, inverse_bit1 k t, i1,
    inverse_bit0 k t, i0, rfl, valid_eq_xor k t, ?_⟩
  rintro rfl
  exact LaneResult.mk.inj hex

/-- The source's bit test on numbers, `(v >> p) & 1`. -/
theorem shiftRight_and_one (v : Byte) (p : Nat) : v.toNat >>> p &&& 1 = (v.getLsbD p).toNat := by
  rw [Nat.and_one_is_mod, Nat.shiftRight_eq_div_pow, BitVec.getLsbD, Nat.toNat_testBit]

/-- Tested bits put together by shifts and ors are the number of these bits (R47). -/
theorem shiftLeft_or_bits (x y z : Bool) :
    x.toNat <<< 2 ||| y.toNat <<< 1 ||| z.toNat <<< 0 = 4 * x.toNat + 2 * y.toNat + z.toNat := by
  revert x y z; decide

/-- `control` by the source's shift-and-or formula (R40). -/
theorem control_toNat_shiftOr (k : Offset) (t : Triple) :
    (control k t).toNat = (t.b1.toNat >>> (k.val + 4) &&& 1) <<< 2 ||| (t.b2.toNat >>> k.val &&& 1) <<< 1
      ||| (t.b2.toNat >>> (k.val + 4) &&& 1) <<< 0 := by
  simp only [shiftRight_and_one, shiftLeft_or_bits, control_toNat]

/-- `inverse` by the source's shift-and-or formula (R40). -/
theorem inverse_toNat_shiftOr (k : Offset) (t : Triple) :
    (inverse k t).toNat = (t.b0.toNat >>> k.val &&& 1) <<< 2 ||| (t.b0.toNat >>> (k.val + 4) &&& 1) <<< 1
      ||| (t.b1.toNat >>> k.val &&& 1) <<< 0 := by
  simp only [shiftRight_and_one, shiftLeft_or_bits, inverse_toNat]

/-- The validity formula on numbers, as the source writes it (R40). -/
theorem validFormula_iff_toNat (c i : Code) : validFormula c i = true ↔ c.toNat = (7 &&& (255 - i.toNat)) := by
  revert c i; decide

/-- The validity formula with its words written out (R46). -/
theorem valid_iff_maskedComplement (k : Offset) (t : Triple) :
    valid k t = true ↔ (control k t).setWidth 8 = (0x07#8 &&& ~~~ ((inverse k t).setWidth 8)) :=
  beq_iff_eq

/-! ### Validity on nibbles and at other widths -/

/-- The four lanes' validity at once (R51). -/
theorem VALID_block (t : Triple) :
    (block t).VALID = ((t.b1.extractLsb' 4 4 ^^^ t.b0.extractLsb' 0 4)
      &&& (t.b2.extractLsb' 0 4 ^^^ t.b0.extractLsb' 4 4)
      &&& (t.b2.extractLsb' 4 4 ^^^ t.b1.extractLsb' 0 4)) := by
  rw [nibble_eq_iff]
  intro k
  simp only [Outputs.VALID_getLsbD, get_block, lane, valid_eq_xor, BitVec.getLsbD_and, BitVec.getLsbD_xor,
    lowNibble_getLsbD, highNibble_getLsbD]

/-- The bits of the mask 7 at any width that holds it. -/
theorem seven_getLsbD {n : Nat} (hn : 3 ≤ n) (j : Nat) : (7#n).getLsbD j = decide (j < 3) := by
  rw [BitVec.getLsbD_ofNat, show 7 = 2 ^ 3 - 1 from rfl, Nat.testBit_two_pow_sub_one, ← Bool.decide_and,
    decide_eq_decide]
  omega

/-- A complement within `n` bits, masked to 3, is the complement within 3 bits (R52). -/
theorem seven_and_not_setWidth {n : Nat} (hn : 3 ≤ n) (i : Code) :
    7#n &&& ~~~ (i.setWidth n) = (~~~ i).setWidth n := by
  apply BitVec.eq_of_getLsbD_eq
  intro j hj
  rw [BitVec.getLsbD_and, seven_getLsbD hn, BitVec.getLsbD_not, BitVec.getLsbD_setWidth, BitVec.getLsbD_setWidth,
    BitVec.getLsbD_not]
  simp [hj]

theorem toNat_setWidth_code {n : Nat} (hn : 3 ≤ n) (c : Code) : (c.setWidth n).toNat = c.toNat := by
  rw [BitVec.toNat_setWidth, Nat.mod_eq_of_lt]
  exact c.isLt.trans_le (Nat.pow_le_pow_right (by decide) hn)

theorem toNat_not_code (c : Code) : (~~~ c).toNat = 7 - c.toNat := by
  rw [BitVec.toNat_not]

/-- The unbounded complement `-i - 1`, masked to 3 bits (R52). -/
theorem land_seven_unbounded_not (i : Code) : Int.land 7 (-(i.toNat : Int) - 1) = 7 - (i.toNat : Int) := by
  have hldiff : Nat.ldiff 7 i.toNat = (~~~ i).toNat := by
    apply Nat.eq_of_testBit_eq
    intro j
    rw [Nat.testBit_ldiff, BitVec.testBit_toNat, BitVec.testBit_toNat, BitVec.getLsbD_not,
      show 7 = 2 ^ 3 - 1 from rfl, Nat.testBit_two_pow_sub_one]
  have hi := i.isLt
  calc Int.land 7 (-(i.toNat : Int) - 1) = Int.land 7 (Int.negSucc i.toNat) := by rw [Int.negSucc_eq, neg_add']
    _ = ((Nat.ldiff 7 i.toNat : Nat) : Int) := rfl
    _ = 7 - (i.toNat : Int) := by rw [hldiff, toNat_not_code]; omega

/-- The validity formula at any width of 3 or more (R52). -/
theorem validFormula_eq_atWidth {n : Nat} (hn : 3 ≤ n) (c i : Code) :
    validFormula c i = (c.setWidth n == (7#n &&& ~~~ (i.setWidth n))) := by
  have hinj : c.setWidth n = (~~~ i).setWidth n ↔ c = ~~~ i := by
    rw [← BitVec.toNat_inj, toNat_setWidth_code hn, toNat_setWidth_code hn, BitVec.toNat_inj]
  rw [validFormula_eq_not3, seven_and_not_setWidth hn, Bool.eq_iff_iff, beq_iff_eq, beq_iff_eq, hinj]

/-! ### Which outputs occur -/

/-- Every value of `VALID` is that of some triple (R45, R55). -/
theorem exists_triple_of_VALID (v : Nibble) : ∃ t : Triple, (block t).VALID = v := by
  obtain ⟨t, ht⟩ := exists_triple_of_codes fun k => (0#3, if v.getLsbD k.val then 7#3 else 0#3)
  refine ⟨t, nibble_eq_iff.mpr fun k => ?_⟩
  obtain ⟨hc, hi⟩ := ht k
  rw [Outputs.VALID_getLsbD, get_block, lane, valid, hc, hi]
  cases v.getLsbD k.val <;> decide

theorem validFormula_ite_not (c : Code) (v : Bool) : validFormula c (if v then ~~~ c else c) = v := by
  revert c v; decide

/-- Every pair is delivered on every lane, for some triple (R48). -/
theorem exists_triple_of_lane (k : Offset) (c : Code) (v : Bool) : ∃ t : Triple, lane k t = ⟨c, v⟩ := by
  obtain ⟨t, ht⟩ := exists_triple_of_codes fun _ => (c, if v then ~~~ c else c)
  obtain ⟨hc, hi⟩ := ht k
  refine ⟨t, ?_⟩
  rw [lane, valid, hc, hi, validFormula_ite_not]

end Sys2Proof.Machine

namespace Sys2Proof.Proofs
open Sys2Proof.Machine

/-- Settles O18: R40 at offset 0. -/
theorem lane0DrivesItsPair : Obligations.Lane0DrivesItsPair := by
  unfold Obligations.Lane0DrivesItsPair
  intro t s
  exact ⟨s.present t, inverse 0 t, exec_lane0 t s, rfl, lane_pair_bits 0 (by decide) t⟩

/-- Settles O19: R40 at offset 1. -/
theorem lane1DrivesItsPair : Obligations.Lane1DrivesItsPair := by
  unfold Obligations.Lane1DrivesItsPair
  intro t s
  exact ⟨s.present t, inverse 1 t, exec_lane1 t s, rfl, lane_pair_bits 1 (by decide) t⟩

/-- Settles O20: R40 at offset 2. -/
theorem lane2DrivesItsPair : Obligations.Lane2DrivesItsPair := by
  unfold Obligations.Lane2DrivesItsPair
  intro t s
  exact ⟨s.present t, inverse 2 t, exec_lane2 t s, rfl, lane_pair_bits 2 (by decide) t⟩

/-- Settles O21: R40 at offset 3. -/
theorem lane3DrivesItsPair : Obligations.Lane3DrivesItsPair := by
  unfold Obligations.Lane3DrivesItsPair
  intro t s
  exact ⟨s.present t, inverse 3 t, exec_lane3 t s, rfl, lane_pair_bits 3 (by decide) t⟩

/-- Settles O22: both copies and their comparison in the source's shifts and ors. -/
theorem laneFollowsTheSourceFormulas : Obligations.LaneFollowsTheSourceFormulas := by
  unfold Obligations.LaneFollowsTheSourceFormulas
  constructor
  · intro k t s
    refine ⟨s.present t, exec_laneInstr t s k, _, _, rfl, rfl, control_toNat_shiftOr k t, ?_, rfl⟩
    rw [← control_toNat_shiftOr, ← inverse_toNat_shiftOr]
    exact validFormula_iff_toNat (control k t) (inverse k t)
  · intro s
    refine ⟨_, exec_lane3 _ s, ?_⟩
    rw [State.present_control3, State.present_valid3]
    decide

/-- Settles O23: all five operations leave the same wires, so four lanes in any order leave what the block leaves. -/
theorem decodeDeliversTheFourLanes : Obligations.DecodeDeliversTheFourLanes := by
  unfold Obligations.DecodeDeliversTheFourLanes
  refine ⟨?lanes, ?everyValidity, ?scenario⟩
  case lanes =>
    intro t s
    refine ⟨s.present t, exec_decode t s, rfl, fun k => ⟨s.present t, exec_laneInstr t s k, rfl⟩, ?_⟩
    intro a b c d _
    exact ⟨_, _, _, exec_laneInstr t _ a, exec_laneInstr t _ b, exec_laneInstr t _ c, exec_laneInstr t _ d⟩
  case everyValidity =>
    intro v s
    obtain ⟨t, ht⟩ := exists_triple_of_VALID v
    exact ⟨t, s.present t, exec_decode t s, ht⟩
  case scenario =>
    intro s
    refine ⟨_, exec_decode _ s, ?_⟩
    rw [State.outputs_present]
    decide

/-- Settles O28: the validity formula as words and as a sum, and its table over all codes. -/
theorem validMeansControlIsTheMaskedComplement : Obligations.ValidMeansControlIsTheMaskedComplement := by
  unfold Obligations.ValidMeansControlIsTheMaskedComplement
  constructor
  · intro k t s
    exact ⟨s.present t, exec_laneInstr t s k, valid_iff_maskedComplement k t,
      validFormula_iff_add (control k t) (inverse k t)⟩
  · decide

/-- Settles O30: a code has 3 bits, and every pair of codes is stored by some triple. -/
theorem controlStaysInRangeAndEveryPairOccurs : Obligations.ControlStaysInRangeAndEveryPairOccurs := by
  unfold Obligations.ControlStaysInRangeAndEveryPairOccurs
  constructor
  · intro i s u _ k
    exact Nat.le_of_lt_succ (u.out k).control.isLt
  · intro k c v s
    obtain ⟨t, ht⟩ := exists_triple_of_lane k c v
    exact ⟨t, s.present t, exec_decode t s, ht⟩

/-- Settles O31: `control` is read without `inverse`, and a failed comparison is `valid` 0. -/
theorem disagreeingCopiesAreReportedNotCorrected : Obligations.DisagreeingCopiesAreReportedNotCorrected := by
  unfold Obligations.DisagreeingCopiesAreReportedNotCorrected
  intro k t s
  refine ⟨s.present t, exec_laneInstr t s k, control_toNat k t, fun hne => ?_⟩
  exact eq_false_of_ne_true (mt (valid_iff_maskedComplement k t).mp hne)

/-- Settles O32: the six bits fix both copies of lane `k`, and nothing else of the triple is read there. -/
theorem consistentlyStoredCodesAreDelivered : Obligations.ConsistentlyStoredCodesAreDelivered := by
  unfold Obligations.ConsistentlyStoredCodesAreDelivered
  intro k c t s c2 c1 c0 i2 i1 i0
  have hlane : lane k t = ⟨c, true⟩ := by
    apply lane_eq_of_codes
    · exact code_eq_of_bits ((control_bit2 k t).trans c2) ((control_bit1 k t).trans c1) ((control_bit0 k t).trans c0)
    · apply code_eq_of_bits
      · rw [inverse_bit2, i2, not_code_getLsbD (by decide)]
      · rw [inverse_bit1, i1, not_code_getLsbD (by decide)]
      · rw [inverse_bit0, i0, not_code_getLsbD (by decide)]
  exact ⟨⟨_, exec_laneInstr t s k, hlane⟩, ⟨_, exec_decode t s, hlane⟩, ⟨_, step_eq _, hlane⟩⟩

/-- Settles O33: the exclusive-ors on the codes, on the input bits, and on the nibbles of all four offsets. -/
theorem validityIsTheAndOfThreeExclusiveOrs : Obligations.ValidityIsTheAndOfThreeExclusiveOrs := by
  unfold Obligations.ValidityIsTheAndOfThreeExclusiveOrs
  intro t s
  refine ⟨s.present t, exec_decode t s, fun k => ?_, VALID_block t⟩
  refine ⟨validFormula_eq_xor (control k t) (inverse k t), valid_eq_xor k t, ?_, ?_, ?_⟩
  · exact (highNibble_getLsbD t.b1 k).trans (control_bit2 k t).symm
  · exact (lowNibble_getLsbD t.b2 k).trans (control_bit1 k t).symm
  · exact (highNibble_getLsbD t.b2 k).trans (control_bit0 k t).symm

/-- Settles O34: the masked complement at `n` bits is the complement within 3 bits; the other readings by their codes. -/
theorem complementWidthDoesNotMatter : Obligations.ComplementWidthDoesNotMatter := by
  unfold Obligations.ComplementWidthDoesNotMatter
  refine ⟨?complement, ?lanes, ?unbounded, ?unmasked, ?otherGrouping⟩
  case complement =>
    intro n i hn
    rw [seven_and_not_setWidth hn, toNat_setWidth_code hn, toNat_not_code]
  case lanes =>
    intro n k t s hn
    exact ⟨s.present t, exec_laneInstr t s k, validFormula_eq_atWidth hn (control k t) (inverse k t)⟩
  case unbounded => exact land_seven_unbounded_not
  case unmasked => decide
  case otherGrouping => exact ⟨0#3, 7#3, by decide⟩

end Sys2Proof.Proofs

/-! The bits a lane reads, and the effect of inverting one of them (R53, R54). -/

namespace Sys2Proof.Machine

/-! ### The bits of a lane in the packed word -/

/-- The bits of lane `k` are every fourth bit of `W` from bit `k` (R53). -/
theorem bitLane_eq_iff (k : Offset) (n : Fin 24) : bitLane n = k ↔ n.val % 4 = k.val := Fin.ext_iff

/-- Triples that agree on the bits of lane `k` have the same pair there (R53). -/
theorem lane_congr_of_bitLane {k : Offset} {t t' : Triple}
    (h : ∀ n : Fin 24, bitLane n = k → (pack t).getLsbD n.val = (pack t').getLsbD n.val) : lane k t = lane k t' := by
  apply lane_congr
  intro m hm
  exact h ⟨4 * m + k.val, by omega⟩ ((bitLane_eq_iff _ _).mpr (by dsimp only; omega))

/-- The two bits of pair `m` of lane `k` are complements (R34). -/
def pairDiffers (w : Word24) (k : Offset) (m : Nat) : Bool :=
  w.getLsbD (4 * m + k.val) ^^ w.getLsbD (12 + 4 * m + k.val)

/-- A lane is consistent exactly when the bits of its three pairs are complements (R51). -/
theorem valid_unpack_iff (w : Word24) (k : Offset) :
    valid k (unpack w) = true ↔ ∀ m < 3, pairDiffers w k m = true := by
  have hpair (m : Nat) (hm : m < 3) : pairDiffers w k m
      = ((control k (unpack w)).getLsbD (2 - m) ^^ (inverse k (unpack w)).getLsbD (2 - m)) := by
    rw [(pairBits_unpack w k hm).1, (pairBits_unpack w k hm).2, pairDiffers, Bool.xor_comm]
  rw [valid, validFormula_eq_xor, Bool.and_eq_true, Bool.and_eq_true]
  constructor
  · rintro ⟨⟨h2, h1⟩, h0⟩ m hm
    rw [hpair m hm]
    interval_cases m <;> assumption
  · intro h
    exact ⟨⟨hpair 0 (by decide) ▸ h 0 (by decide), hpair 1 (by decide) ▸ h 1 (by decide)⟩,
      hpair 2 (by decide) ▸ h 2 (by decide)⟩

/-! ### Inverting one bit -/

/-- The word with bit `W[n]` inverted. -/
abbrev flipBit (w : Word24) (n : Fin 24) : Word24 := w ^^^ (1#24 <<< n.val)

/-- Only the bit itself changes. -/
theorem flipBit_getLsbD (w : Word24) (n : Fin 24) (i : Nat) :
    (flipBit w n).getLsbD i = (w.getLsbD i ^^ decide (i = n.val)) := by
  have hbit : (1#24 <<< n.val).getLsbD i = decide (i = n.val) := by
    rw [← BitVec.twoPow_eq, BitVec.getLsbD_twoPow, decide_eq_true n.isLt, Bool.true_and, decide_eq_decide, eq_comm]
  rw [BitVec.getLsbD_xor, hbit]

/-- (a) The other lanes do not read the bit (R54). -/
theorem lane_flipBit_of_ne (w : Word24) {n : Fin 24} {j : Offset} (hj : j ≠ bitLane n) :
    lane j (unpack (flipBit w n)) = lane j (unpack w) := by
  apply lane_congr_of_bitLane
  intro i hi
  have hin : i.val ≠ n.val := fun h => hj (Fin.ext h ▸ hi.symm)
  rw [pack_unpack, pack_unpack, flipBit_getLsbD, decide_eq_false hin, Bool.xor_false]

/-- The bit of `control` that `W[n]` holds; none for the bits of the inverted copy (R54). -/
def controlBitOf (n : Fin 24) : Code :=
  if n.val < 12 then 0b000#3 else if n.val < 16 then 0b100#3 else if n.val < 20 then 0b010#3 else 0b001#3

/-- `W[n]` is `control` bit `2 - m` of its lane when it is `W[12 + 4m + k]` (R34). -/
theorem controlBitOf_getLsbD (n : Fin 24) {m : Nat} (hm : m < 3) :
    (controlBitOf n).getLsbD (2 - m) = decide (12 + 4 * m + (bitLane n).val = n.val) := by
  revert n
  interval_cases m <;> decide

/-- (a) `control` changes in the bit that `W[n]` holds, and in no other (R54). -/
theorem control_flipBit (w : Word24) (n : Fin 24) :
    control (bitLane n) (unpack (flipBit w n)) = control (bitLane n) (unpack w) ^^^ controlBitOf n := by
  apply code_eq_of_pairBits
  intro m hm
  rw [BitVec.getLsbD_xor, (pairBits_unpack _ _ hm).1, (pairBits_unpack _ _ hm).1, flipBit_getLsbD,
    controlBitOf_getLsbD n hm]

/-- The pair of `W[n]` changes from complements to equal bits or back, and no other pair does (R54). -/
theorem pairDiffers_flipBit (w : Word24) (n : Fin 24) {m : Nat} (hm : m < 3) :
    pairDiffers (flipBit w n) (bitLane n) m = (pairDiffers w (bitLane n) m ^^ decide (m = n.val % 12 / 4)) := by
  have hbits : (decide (4 * m + (bitLane n).val = n.val) ^^ decide (12 + 4 * m + (bitLane n).val = n.val))
      = decide (m = n.val % 12 / 4) := by
    revert n
    interval_cases m <;> decide
  rw [pairDiffers, pairDiffers, flipBit_getLsbD, flipBit_getLsbD, ← hbits]
  rw [Bool.xor_assoc, Bool.xor_left_comm (decide _), ← Bool.xor_assoc]

/-- The pair that `W[n]` belongs to is one of three. -/
theorem pairIndex_lt (n : Fin 24) : n.val % 12 / 4 < 3 := by omega

/-- (b) A consistent lane becomes inconsistent (R54). -/
theorem valid_flipBit_of_valid {w : Word24} {n : Fin 24} (h : valid (bitLane n) (unpack w) = true) :
    valid (bitLane n) (unpack (flipBit w n)) = false := by
  have hw := (valid_unpack_iff ..).mp h _ (pairIndex_lt n)
  refine eq_false_of_ne_true fun hflip => ?_
  have := (valid_unpack_iff ..).mp hflip _ (pairIndex_lt n)
  rw [pairDiffers_flipBit w n (pairIndex_lt n), hw] at this
  simp at this

/-- (c) The lane is consistent afterwards exactly when the pair of `W[n]` was the only one with equal bits (R54). -/
theorem valid_flipBit_iff (w : Word24) (n : Fin 24) :
    valid (bitLane n) (unpack (flipBit w n)) = true ↔
      ∀ m < 3, (w.getLsbD (4 * m + n.val % 4) = w.getLsbD (12 + 4 * m + n.val % 4) ↔ m = n.val % 12 / 4) := by
  have hxor (x y : Bool) (p : Prop) [Decidable p] : ((x ^^ y) ^^ decide p) = true ↔ (x = y ↔ p) := by
    by_cases hp : p <;> simp [hp]
  rw [valid_unpack_iff]
  refine forall₂_congr fun m hm => ?_
  rw [pairDiffers_flipBit w n hm]
  exact hxor ..

/-! ### Consequences -/

/-- Two consistent codings of a lane that differ in a bit differ in a second one: with that bit alone inverted, the
lane would be inconsistent (R54). -/
theorem exists_second_difference {w w' : Word24} {n : Fin 24} (hw : valid (bitLane n) (unpack w) = true)
    (hw' : valid (bitLane n) (unpack w') = true) (hn : w.getLsbD n.val ≠ w'.getLsbD n.val) :
    ∃ m : Fin 24, m ≠ n ∧ bitLane m = bitLane n ∧ w.getLsbD m.val ≠ w'.getLsbD m.val := by
  by_contra! hsame
  have hlane : lane (bitLane n) (unpack w') = lane (bitLane n) (unpack (flipBit w n)) := by
    apply lane_congr_of_bitLane
    intro i hi
    rw [pack_unpack, pack_unpack, flipBit_getLsbD]
    by_cases hin : i = n
    · rw [hin, decide_eq_true rfl, Bool.xor_true, Bool.eq_not]
      exact hn.symm
    · rw [decide_eq_false (fun h => hin (Fin.ext h)), Bool.xor_false, hsame i hin hi]
  have hvalid : valid (bitLane n) (unpack (flipBit w n)) = true := (congrArg LaneResult.valid hlane).symm.trans hw'
  rw [valid_flipBit_of_valid hw] at hvalid
  cases hvalid

/-- Inverting all 24 bits complements both copies of every code. -/
theorem codes_unpack_not (w : Word24) (k : Offset) :
    control k (unpack (~~~ w)) = ~~~ control k (unpack w) ∧ inverse k (unpack (~~~ w)) = ~~~ inverse k (unpack w) := by
  have hnot {i : Nat} (hi : i < 24) : (~~~ w).getLsbD i = !w.getLsbD i := by
    rw [BitVec.getLsbD_not, decide_eq_true hi, Bool.true_and]
  refine ⟨code_eq_of_pairBits fun m hm => ?_, code_eq_of_pairBits fun m hm => ?_⟩
  · rw [not_code_getLsbD (by omega), (pairBits_unpack _ k hm).1, (pairBits_unpack _ k hm).1, hnot (by omega)]
  · rw [not_code_getLsbD (by omega), (pairBits_unpack _ k hm).2, (pairBits_unpack _ k hm).2, hnot (by omega)]

/-- Inverting all 24 bits leaves every `valid` (R54). -/
theorem valid_unpack_not (w : Word24) (k : Offset) : valid k (unpack (~~~ w)) = valid k (unpack w) := by
  obtain ⟨hc, hi⟩ := codes_unpack_not w k
  rw [valid, hc, hi, validFormula_not_not, valid]

end Sys2Proof.Machine

namespace Sys2Proof.Proofs
open Sys2Proof.Machine

/-- Settles O35: a lane's pair depends on its six bits, and inverting any bit of V1 makes its lane inconsistent. -/
theorem lanesReadDisjointBitsAndNoneIsIgnored : Obligations.LanesReadDisjointBitsAndNoneIsIgnored := by
  unfold Obligations.LanesReadDisjointBitsAndNoneIsIgnored
  refine ⟨?ownBitsOnly, ?noneIgnored, ?positions⟩
  case ownBitsOnly =>
    intro k t t' s h
    have hlane := lane_congr_of_bitLane h
    exact ⟨⟨_, _, exec_laneInstr t s k, exec_laneInstr t' s k, hlane⟩,
      ⟨_, _, exec_decode t s, exec_decode t' s, hlane⟩⟩
  case noneIgnored =>
    intro n
    have hvalid : valid (bitLane n) (unpack 0x8007FF#24) = true := by
      generalize bitLane n = k
      revert k
      decide
    refine ⟨0x8007FF#24, State.reset, _, _, exec_decode _ _, exec_decode _ _, fun hsame => ?_⟩
    have hflip : valid (bitLane n) (unpack (flipBit 0x8007FF#24 n)) = true :=
      (congrArg LaneResult.valid hsame).symm.trans hvalid
    rw [valid_flipBit_of_valid hvalid] at hflip
    cases hflip
  case positions =>
    intro k n
    rw [bitLane_eq_iff]
    omega

/-- Settles O36: a bit is in one pair of one lane, so inverting it changes that pair only. -/
theorem singleBitChangesAreDetected : Obligations.SingleBitChangesAreDetected := by
  unfold Obligations.SingleBitChangesAreDetected
  refine ⟨?oneBit, ?twoBits, by decide, by decide, ?allBits⟩
  case oneBit =>
    intro w n s
    exact ⟨_, _, exec_decode _ s, exec_decode _ s, fun j hj => lane_flipBit_of_ne w hj, control_flipBit w n,
      valid_flipBit_of_valid, fun _ => valid_flipBit_iff w n⟩
  case twoBits =>
    rintro k w w' hw hw' ⟨n, rfl, hn⟩
    obtain ⟨m, hmn, hlane, hm⟩ := exists_second_difference hw hw' hn
    exact ⟨m, n, hmn, hlane, rfl, hm, hn⟩
  case allBits =>
    intro w
    constructor
    · rw [nibble_eq_iff]
      intro k
      rw [Outputs.VALID_getLsbD, Outputs.VALID_getLsbD, get_block, get_block]
      exact valid_unpack_not w k
    · intro k
      rw [get_block, get_block, lane, lane, (codes_unpack_not w k).1, toNat_not_code]

end Sys2Proof.Proofs

/-! The counts of R55: a word is a choice of two codes for each offset, so the words with given sets of pairs of codes on
the four offsets are counted by the product of the sizes of these sets. -/

namespace Sys2Proof.Machine

/-! ### The 64 values of a lane -/

/-- The pairs of copies whose agreement is `v`. -/
def codePairs (v : Bool) : Finset (Code × Code) := Finset.univ.filter fun p => validFormula p.1 p.2 = v

/-- Of a lane's 64 values 8 are valid and 56 are not. -/
theorem card_codePairs (v : Bool) : (codePairs v).card = if v then 8 else 56 := by
  revert v; decide

/-! ### Words by the codes of their lanes -/

/-- The words whose codes on each offset are in a set given for the offset. -/
theorem card_words_of_codes (S : Offset → Finset (Code × Code)) :
    (Finset.univ.filter fun w : Word24 => ∀ k, laneCodes w k ∈ S k).card = ∏ k, (S k).card := by
  rw [← Fintype.card_piFinset]
  refine Finset.card_bijective laneCodes laneCodes_bijective fun w => ?_
  rw [Finset.mem_filter_univ, Fintype.mem_piFinset]

/-- The codes of a lane are in `codePairs v` when the lane's `valid` is `v`. -/
theorem laneCodes_mem_codePairs (w : Word24) (k : Offset) (v : Bool) :
    laneCodes w k ∈ codePairs v ↔ valid k (unpack w) = v :=
  Finset.mem_filter_univ (laneCodes w k)

/-- `VALID` is `v` exactly when the copies on each offset agree as `v` says. -/
theorem VALID_eq_iff_codes (w : Word24) (v : Nibble) :
    (block (unpack w)).VALID = v ↔ ∀ k : Offset, laneCodes w k ∈ codePairs (v.getLsbD k.val) := by
  rw [nibble_eq_iff]
  refine forall_congr' fun k => ?_
  rw [Outputs.VALID_getLsbD, get_block, laneCodes_mem_codePairs, lane]

/-- The offsets whose bit in a nibble is set. -/
def setBits (v : Nibble) : Finset Offset := Finset.univ.filter fun k => v.getLsbD k.val = true

theorem card_clearBits (v : Nibble) :
    (Finset.univ.filter fun k : Offset => v.getLsbD k.val = false).card = 4 - (setBits v).card := by
  revert v; decide

/-- The number of nibbles with `j` bits set. -/
theorem card_nibbles_of_setBits {j : Nat} (hj : j ≤ 4) :
    (Finset.univ.filter fun v : Nibble => (setBits v).card = j).card = Nat.choose 4 j := by
  interval_cases j <;> decide

/-- The words with one value of `VALID` (R55). -/
theorem card_words_of_VALID (v : Nibble) :
    (Finset.univ.filter fun w : Word24 => (block (unpack w)).VALID = v).card
      = 8 ^ (setBits v).card * 56 ^ (4 - (setBits v).card) := by
  rw [← card_clearBits]
  simp only [VALID_eq_iff_codes, card_words_of_codes, card_codePairs, Finset.prod_ite, Finset.prod_const,
    Bool.not_eq_true, setBits]

/-- The words whose lane `k` is consistent: the other three lanes are free (R55). -/
theorem card_words_valid (k : Offset) :
    (Finset.univ.filter fun w : Word24 => valid k (unpack w) = true).card = 8 * 64 ^ 3 := by
  have hset (w : Word24) : valid k (unpack w) = true
      ↔ ∀ j, laneCodes w j ∈ if j = k then codePairs true else Finset.univ := by
    rw [← laneCodes_mem_codePairs]
    constructor
    · intro h j
      split
      case isTrue hjk => exact hjk ▸ h
      case isFalse => exact Finset.mem_univ _
    · intro h
      simpa only [if_true] using h k
  have hcard (j : Offset) :
      (if j = k then codePairs true else Finset.univ).card = if j = k then 8 else 64 := by
    rw [apply_ite Finset.card]
    rfl
  have hprod : ∏ j : Offset, (if j = k then 8 else 64) = 8 * 64 ^ 3 := by
    rw [Finset.prod_ite, Finset.filter_eq', Finset.filter_ne']
    simp
  simp only [hset, card_words_of_codes, hcard, hprod]

/-- The consistent lanes of a word are the bits of its `VALID`. -/
theorem validLanes_eq_setBits (w : Word24) :
    (Finset.univ.filter fun k : Offset => valid k (unpack w) = true) = setBits (block (unpack w)).VALID := by
  simp only [setBits, Outputs.VALID_getLsbD, get_block, lane]

/-- The words with exactly `j` consistent lanes: as many for each of the values of `VALID` with `j` bits (R55). -/
theorem card_words_of_validLanes {j : Nat} (hj : j ≤ 4) :
    (Finset.univ.filter fun w : Word24 =>
        (Finset.univ.filter fun k : Offset => valid k (unpack w) = true).card = j).card
      = Nat.choose 4 j * 8 ^ j * 56 ^ (4 - j) := by
  simp only [validLanes_eq_setBits]
  rw [Finset.card_eq_sum_card_fiberwise (f := fun w => (block (unpack w)).VALID)
    (t := Finset.univ.filter fun v : Nibble => (setBits v).card = j) (fun w hw => by simpa using hw)]
  have hfiber : ∀ v ∈ Finset.univ.filter (fun v : Nibble => (setBits v).card = j),
      ((Finset.univ.filter fun w : Word24 => (setBits (block (unpack w)).VALID).card = j).filter
        fun w => (block (unpack w)).VALID = v).card = 8 ^ j * 56 ^ (4 - j) := by
    intro v hv
    obtain rfl := (Finset.mem_filter_univ v).mp hv
    rw [← card_words_of_VALID, Finset.filter_filter]
    exact congrArg Finset.card (Finset.filter_congr fun w _ => and_iff_right_of_imp fun h => h ▸ rfl)
  rw [Finset.sum_congr rfl hfiber, Finset.sum_const, card_nibbles_of_setBits hj, smul_eq_mul, mul_assoc]

/-! ### The well-formed words -/

/-- The well-formed words (R55). -/
theorem card_wellFormed_words :
    (Finset.univ.filter fun w : Word24 => tripleWellFormed (unpack w) = true).card = 4096 := by
  simp only [tripleWellFormed, beq_iff_eq]
  rw [card_words_of_VALID]
  decide

/-- Twelve bits are four codes. -/
theorem CTRL_eq_of_codes {x y : BitVec 12}
    (h : ∀ k : Offset, x.extractLsb' (3 * k.val) 3 = y.extractLsb' (3 * k.val) 3) : x = y := by
  apply BitVec.eq_of_getLsbD_eq
  intro i hi
  have hbit := congrArg (BitVec.getLsbD · (i % 3)) (h ⟨i / 3, by omega⟩)
  simpa only [BitVec.getLsbD_extractLsb', Nat.mod_lt i (by decide : 0 < 3), decide_true, Bool.true_and,
    Nat.div_add_mod] using hbit

/-- The packed control output is made of the code at each offset's place (R35). -/
theorem CTRL_eq_iff (t : Triple) (c : BitVec 12) :
    (block t).CTRL = c ↔ ∀ k : Offset, control k t = c.extractLsb' (3 * k.val) 3 := by
  constructor
  · rintro rfl k
    rw [Outputs.CTRL_extractLsb', get_block, lane]
  · intro h
    apply CTRL_eq_of_codes
    intro k
    rw [Outputs.CTRL_extractLsb', get_block, lane, h k]

/-- One well-formed word for each value of `CTRL`: the one that stores the codes of `CTRL` and their complements
(R55). -/
theorem existsUnique_wellFormed_of_CTRL (c : BitVec 12) :
    ∃! w : Word24, tripleWellFormed (unpack w) = true ∧ (block (unpack w)).CTRL = c := by
  have hiff (w : Word24) : (tripleWellFormed (unpack w) = true ∧ (block (unpack w)).CTRL = c)
      ↔ laneCodes w = fun k => (c.extractLsb' (3 * k.val) 3, ~~~ c.extractLsb' (3 * k.val) 3) := by
    rw [tripleWellFormed_iff, CTRL_eq_iff, ← forall_and, funext_iff]
    refine forall_congr' fun k => ?_
    rw [laneCodes, Prod.mk.injEq, valid_iff_inverse_eq_not]
    constructor
    · rintro ⟨hi, hc⟩
      exact ⟨hc, hc ▸ hi⟩
    · rintro ⟨hc, hi⟩
      exact ⟨hc.symm ▸ hi, hc⟩
  exact (existsUnique_congr hiff).mpr (laneCodes_bijective.existsUnique _)

end Sys2Proof.Machine

namespace Sys2Proof.Proofs
open Sys2Proof.Machine

/-- Settles O37: a word is four pairs of codes, and of a lane's 64 pairs one for each control is valid. -/
theorem validTriplesAreCounted : Obligations.ValidTriplesAreCounted := by
  unfold Obligations.ValidTriplesAreCounted
  refine ⟨?perControl, card_codePairs true, card_codePairs false, ?perLane, ?perValidity, ?perNumber,
    by decide, by decide, by decide, by decide, by decide, card_wellFormed_words, existsUnique_wellFormed_of_CTRL⟩
  case perControl => decide
  case perLane => exact fun k => (card_words_valid k).trans (by decide)
  case perValidity =>
    intro v
    rw [card_words_of_VALID, card_clearBits, setBits]
  case perNumber => exact fun j hj => card_words_of_validLanes hj

end Sys2Proof.Proofs

/-! Words, rows and byte strings read as operations, and their encodings (30_encoding.md sections 1, 4 and 5; R31, R36,
R37). -/

namespace Sys2Proof

/-- Nothing is illegal, reserved or a hint (R37). -/
@[simp] theorem Instr.wellFormed_eq_true (i : Instr) : i.wellFormed = true := by
  cases i <;> rfl

/-! ### Rows and words -/

/-- The word of an operation, read as the operation's own row, is the operation (R36). -/
theorem decodeAs_row_encode (i : Instr) : decodeAs i.row (encode i) = i := by
  have hwf := i.wellFormed_eq_true
  cases i with
  | lane0 t => exact Laws.RowRoundTrip.lane0 t hwf
  | lane1 t => exact Laws.RowRoundTrip.lane1 t hwf
  | lane2 t => exact Laws.RowRoundTrip.lane2 t hwf
  | lane3 t => exact Laws.RowRoundTrip.lane3 t hwf
  | decode t => exact Laws.RowRoundTrip.decode t hwf

@[simp] theorem decodeAs_row (r : Row) (w : Word24) : (decodeAs r w).row = r := by
  cases r <;> rfl

/-! ### The host's numbers -/

/-- The triple of a number's word, its bytes read from the number itself (R31). -/
theorem unpack_ofNat (w : Nat) :
    unpack (BitVec.ofNat 24 w)
      = ⟨BitVec.ofNat 8 w, BitVec.ofNat 8 (w / 2 ^ 8), BitVec.ofNat 8 (w / 2 ^ 16)⟩ := by
  rw [unpack, Triple.mk.injEq]
  refine ⟨?_, ?_, ?_⟩ <;> apply BitVec.eq_of_toNat_eq <;>
    simp only [BitVec.extractLsb'_toNat, BitVec.toNat_ofNat, Nat.shiftRight_eq_div_pow] <;> omega

/-- A number of 24 bits is the whole-block operation on its word's triple (log entry 4). -/
theorem decodeTableWord_of_lt {w : Nat} (hw : w < 2 ^ 24) :
    decodeTableWord 24 w = some (.decode (unpack (BitVec.ofNat 24 w))) := by
  rw [decodeTableWord_of_wellFormed ((rawWordWellFormed_iff 24 w).mpr ⟨le_rfl, hw⟩), unpack_ofNat]

/-- A triple's word as a number is the whole-block operation on the triple. -/
theorem decodeTableWord_pack (t : Triple) : decodeTableWord 24 (pack t).toNat = some (.decode t) := by
  rw [decodeTableWord_of_lt (pack t).isLt, BitVec.ofNat_toNat, BitVec.setWidth_eq, unpack_pack]

/-- A number that does not fit its bits, or has more bits than the block's input, decodes to nothing (log entry 5). -/
theorem decodeTableWord_eq_none {nbits w : Nat} (h : 2 ^ nbits ≤ w ∨ 24 < nbits) :
    decodeTableWord nbits w = none := by
  have hraw : ¬ rawWordWellFormed nbits w = true := by
    rw [rawWordWellFormed_iff]
    omega
  rw [decodeTableWord, if_neg hraw]

/-! ### Byte strings -/

/-- Three bytes are the whole-block operation on them, in dump order (R22; log entry 4). -/
theorem decodeBytes_three (x y z : Byte) : decodeBytes [x, y, z] = .ok (.decode ⟨x, y, z⟩) :=
  decodeBytes_encodeBytes (.decode ⟨x, y, z⟩)

theorem decodeBytes_of_length_lt {bytes : List Byte} (h : bytes.length < 3) :
    decodeBytes bytes = .error .tooFewBytes := by
  match bytes, h with
  | [], _ => rfl
  | [_], _ => rfl
  | [_, _], _ => rfl

theorem decodeBytes_of_lt_length {bytes : List Byte} (h : 3 < bytes.length) :
    decodeBytes bytes = .error .tooManyBytes := by
  match bytes, h with
  | _ :: _ :: _ :: _ :: _, _ => rfl

end Sys2Proof

namespace Sys2Proof.Proofs
open Sys2Proof.Machine

/-- Settles O11: packing and unpacking are inverse, and the word a step takes is the one presented. -/
theorem decodingAndEncodingAgree : Obligations.DecodingAndEncodingAgree := by
  unfold Obligations.DecodingAndEncodingAgree
  refine ⟨?ownRow, ?everyRow, decodeTableWord_pack, ?fetched⟩
  case ownRow => exact fun i _ => decodeAs_row_encode i
  case everyRow => exact fun r w => ⟨decodeAs_row r w, encode_decodeAs r w⟩
  case fetched =>
    intro t s
    rw [show encode (.decode t) = pack t from rfl, State.withFetchWord_pack, step_eq, exec_decode,
      State.present_present]
    exact ⟨rfl, State.inputs_present s t⟩

/-- Settles O12: the triple of the number's word has the number's bytes. -/
theorem everyTableWordDecodesByItsBytes : Obligations.EveryTableWordDecodesByItsBytes := by
  unfold Obligations.EveryTableWordDecodesByItsBytes
  constructor
  · intro w hw
    refine ⟨unpack (BitVec.ofNat 24 w), decodeTableWord_of_lt hw, ?_⟩
    rw [unpack_ofNat]
    refine ⟨BitVec.toNat_ofNat w 8, BitVec.toNat_ofNat (w / 2 ^ 8) 8, ?_⟩
    rw [BitVec.toNat_ofNat]
    omega
  · exact fun nbits w h => decodeTableWord_eq_none h

/-- Settles O13: by the length of the byte string. -/
theorem onlyThreeBytesDecode : Obligations.OnlyThreeBytesDecode := by
  unfold Obligations.OnlyThreeBytesDecode
  intro bytes
  refine ⟨decodeBytes_of_length_lt, decodeBytes_of_lt_length, fun h3 => ?_⟩
  obtain ⟨x, y, z, rfl⟩ := List.length_eq_three.mp h3
  exact ⟨_, decodeBytes_three x y z, rfl⟩

/-- Settles O14: the words of the worked examples by their bytes. -/
theorem specWordsReadAsTheirOperations : Obligations.SpecWordsReadAsTheirOperations := by
  unfold Obligations.SpecWordsReadAsTheirOperations
  have h123456 : unpack 0b010101100011010000010010#24 = ⟨0x12#8, 0x34#8, 0x56#8⟩ := by decide
  have hFF0780 : unpack 0b100000000000011111111111#24 = ⟨0xFF#8, 0x07#8, 0x80#8⟩ := by decide
  exact ⟨congrArg Instr.lane0 h123456, congrArg Instr.lane1 h123456, congrArg Instr.lane2 h123456,
    congrArg Instr.lane3 hFF0780, decodeBytes_three _ _ _⟩

/-- Settles O16: every word is an operation by every row, and every operation completes. -/
theorem noInputIsRefused : Obligations.NoInputIsRefused := by
  unfold Obligations.NoInputIsRefused
  intro w hw
  refine ⟨⟨_, decodeTableWord_of_lt hw, Instr.wellFormed_eq_true _⟩, fun r s => ?_⟩
  exact ⟨Instr.wellFormed_eq_true _, _, exec_decodeAs r _ s⟩

/-- Settles O17: an operation answers the state that shows its triple, a step the state itself. -/
theorem everyInstructionCompletes : Obligations.EveryInstructionCompletes := by
  unfold Obligations.EveryInstructionCompletes
  exact ⟨fun i s => ⟨_, exec_eq s i⟩, fun s => ⟨s, step_eq s⟩⟩

/-- Settles O4: the input bytes decode to `ABD.DECODE` of the input triple, which is what a step executes. -/
theorem stepRunsTheDecodedInstruction : Obligations.StepRunsTheDecodedInstruction := by
  unfold Obligations.StepRunsTheDecodedInstruction
  intro s i hdecode _
  obtain rfl : .decode s.inputs = i := Except.ok.inj ((decodeBytes_three s.b0 s.b1 s.b2).symm.trans hdecode)
  rw [step_eq, exec_decode, State.present_inputs]
  exact ⟨rfl, rfl⟩

end Sys2Proof.Proofs

/-! The outputs as a function of the present inputs, and what steps, runs and operations keep (10_state.md, R11 to R25;
R60, R61, R70, R71). -/

namespace Sys2Proof.Machine

/-! ### The outputs in numbers -/

/-- A bit of a byte as a number. -/
theorem getLsbD_toNat (v : Byte) (p : Nat) : (v.getLsbD p).toNat = v.toNat / 2 ^ p % 2 := by
  rw [BitVec.getLsbD, Nat.toNat_testBit]

/-- Two bits are complements exactly when they add up to 1. -/
theorem toNat_add_toNat_eq_one_iff (x y : Bool) : x.toNat + y.toNat = 1 ↔ x = !y := by
  revert x y; decide

/-- The outputs are right for the inputs in every state (R11, R32, R34). -/
theorem settled (s : State) : Settled s := by
  intro k
  simp only [← getLsbD_toNat, toNat_add_toNat_eq_one_iff]
  exact ⟨control_toNat k s.inputs, valid_iff_complements k s.inputs⟩

/-- The four pairs are the eight ports, in offset order (R11, R45). -/
theorem State.outputs_eq_ports (s : State) :
    s.outputs = ⟨⟨s.control0, s.valid0⟩, ⟨s.control1, s.valid1⟩, ⟨s.control2, s.valid2⟩, ⟨s.control3, s.valid3⟩⟩ :=
  rfl

/-- A lane whose pair of bit 2 does not disagree is invalid (R34). -/
theorem valid_eq_false_of_bit2_eq {k : Offset} {t : Triple} (h : t.b1.getLsbD (k.val + 4) = t.b0.getLsbD k.val) :
    valid k t = false := by
  rw [valid_eq_xor, h, Bool.xor_self, Bool.false_and, Bool.false_and]

/-! ### Runs -/

/-- A run of any length ends where it began (R11, R60). -/
theorem run_eq (n : Nat) (s : State) : Host.Core.run core n s = .next s := by
  induction n with
  | zero => rfl
  | succ n ih => rw [run_succ, ih]

/-! ### The bit operations in numbers -/

/-- The bit test in numbers (R4). -/
theorem T_toNat (v : Byte) (p : Fin 8) : (T v p).toNat = v.toNat / 2 ^ p.val % 2 := by
  have hsetWidth (b : Bool) : ((BitVec.ofBool b).setWidth 8).toNat = b.toNat := by revert b; decide
  rw [T_eq, hsetWidth, getLsbD_toNat]

/-- Three assembled bits in numbers (R47). -/
theorem assemble_toNat (x y z : Bool) :
    (assemble ((BitVec.ofBool x).setWidth 8) ((BitVec.ofBool y).setWidth 8) ((BitVec.ofBool z).setWidth 8)).toNat
      = 4 * x.toNat + 2 * y.toNat + z.toNat := by
  obtain ⟨h2, h1, h0⟩ := threeBits_getLsbD x y z
  rw [assemble_ofBool, code_toNat, h2, h1, h0]

/-- The 8-bit complement in numbers, and as an exclusive-or (R47). -/
theorem NOT8_law (v : Byte) : (NOT8 v).toNat = 255 - v.toNat ∧ NOT8 v = v ^^^ 0xFF#8 :=
  ⟨BitVec.toNat_not, BitVec.xor_allOnes.symm⟩

end Sys2Proof.Machine

namespace Sys2Proof.Proofs
open Sys2Proof.Machine

/-- Settles O2: the outputs are right in every state, so also after a drive and after an operation. -/
theorem outputsFollowTheInputsAtEveryInstant : Obligations.OutputsFollowTheInputsAtEveryInstant := by
  unfold Obligations.OutputsFollowTheInputsAtEveryInstant
  refine ⟨settled, ?drives, ?operations, ?ports, ?inputsOnly⟩
  case drives => exact fun s d => ⟨settled _, State.inputs_drive s d⟩
  case operations => exact fun i s => ⟨_, exec_eq s i, settled _⟩
  case ports => exact fun s => ⟨State.outputs_eq_ports s, State.get_outputs s⟩
  case inputsOnly =>
    intro s s' h
    obtain rfl := State.eq_of_inputs h
    exact ⟨rfl, rfl⟩

/-- Settles O3: the outputs are the block's for the triple presented, and a lane needs each of its three pairs. -/
theorem noOutputOutlivesItsInputs : Obligations.NoOutputOutlivesItsInputs := by
  unfold Obligations.NoOutputOutlivesItsInputs
  constructor
  · intro s t
    rw [State.present_eq s t State.reset]
    exact ⟨rfl, _, step_eq _, rfl⟩
  · exact fun s t k _ hbit => valid_eq_false_of_bit2_eq hbit

/-- Settles O5: a step answers the state itself, whose outputs are right for its inputs. -/
theorem stepOutputsFollowThePresentInputs : Obligations.StepOutputsFollowThePresentInputs := by
  unfold Obligations.StepOutputsFollowThePresentInputs
  intro s
  refine ⟨s, step_eq s, rfl, rfl, settled s, fun s' h => ?_⟩
  rw [State.eq_of_inputs h, step_eq]

/-- Settles O7: a run answers the state it began in, as one step does. -/
theorem heldInputsSettleInOneStepForever : Obligations.HeldInputsSettleInOneStepForever := by
  unfold Obligations.HeldInputsSettleInOneStepForever
  exact fun s n => ⟨s, run_eq (n + 1) s, step_eq s, settled s, rfl, rfl⟩

/-- Settles O8: a run of any length answers the state it began in. -/
theorem everyRunIsSafe : Obligations.EveryRunIsSafe := by
  unfold Obligations.EveryRunIsSafe
  exact fun s n => ⟨s, run_eq n s⟩

/-- Settles O24: the state after an operation shows its triple, and a lane reads its own bits of it only. -/
theorem operationsLeaveEverythingElse : Obligations.OperationsLeaveEverythingElse := by
  unfold Obligations.OperationsLeaveEverythingElse
  refine ⟨?completes, ?sameTriple, ?otherLanes⟩
  case completes => exact fun i s => ⟨_, exec_eq s i, State.inputs_present s _⟩
  case sameTriple =>
    intro i s h
    rw [exec_eq, h, State.present_inputs]
  case otherLanes => exact fun i s j h => ⟨_, exec_eq s i, lane_congr_of_bitLane h⟩

/-- Settles O1: the reset inputs are the model's choice, the outputs follow from them. -/
theorem resetShowsZeroInputsAndIsSettled : Obligations.ResetShowsZeroInputsAndIsSettled := by
  unfold Obligations.ResetShowsZeroInputsAndIsSettled
  exact ⟨rfl, by decide, by decide, settled State.reset⟩

/-- Settles O6: the next state of a step is the same state. -/
theorem everyStepKeepsThePortsSettled : Obligations.EveryStepKeepsThePortsSettled := by
  unfold Obligations.EveryStepKeepsThePortsSettled
  intro s u hsettled hstep
  obtain rfl : s = u := by simpa using hstep
  exact ⟨hsettled, rfl⟩

/-- Settles O9: presenting a triple leaves the same state whatever stood there before. -/
theorem firstEvaluationAfterResetIsNotSpecial : Obligations.FirstEvaluationAfterResetIsNotSpecial := by
  unfold Obligations.FirstEvaluationAfterResetIsNotSpecial
  intro s t
  rw [State.present_eq s t State.reset]
  exact ⟨_, step_eq _, step_eq _, State.inputs_present _ t, rfl⟩

/-- Settles O29: the bit test and the assembly from their bits, the masked complement over all eight codes. -/
theorem arithmeticIsExact : Obligations.ArithmeticIsExact := by
  unfold Obligations.ArithmeticIsExact
  refine ⟨T_toNat, assemble_toNat, NOT8_law, ?codes⟩
  case codes => decide

/-- Settles O42: a step keeps the invalid report, and the report for the new triple is that triple's own. -/
theorem inconsistencyIsNotLatched : Obligations.InconsistencyIsNotLatched := by
  unfold Obligations.InconsistencyIsNotLatched
  exact fun s k t _ hvalid => ⟨s, s.present t, step_eq s, hvalid, step_eq _, hvalid, rfl⟩

end Sys2Proof.Proofs

/-! Sequences of drives (R25, R72, R73; 95_test_vectors.md section 3), and the textual form (R38). -/

namespace Sys2Proof.Machine

/-- The outputs read along a sequence are the block's, triple by triple (R25). -/
theorem trace_eq (ds : List Drive) (s : State) : trace ds s = some ((inputsAfter ds s.inputs).map block) := by
  induction ds generalizing s with
  | nil => rfl
  | cons d ds ih =>
    rw [trace_cons, ih (s.drive d), State.inputs_drive, Option.map_some, inputsAfter, List.map_cons]

/-- When every drive presents a whole triple, the ports show these triples. -/
theorem inputsAfter_map_triple (ts : List Triple) (t : Triple) : inputsAfter (ts.map Drive.triple) t = ts := by
  induction ts generalizing t with
  | nil => rfl
  | cons u ts ih => rw [List.map_cons, inputsAfter, Drive.apply, ih u]

/-- The outputs of a sequence of triples do not depend on the state it begins in (R18). -/
theorem trace_map_triple (ts : List Triple) (s : State) :
    trace (ts.map Drive.triple) s = some (ts.map block) := by
  rw [trace_eq, inputsAfter_map_triple]

/-- The text of an operation and of its triple's outputs (R38). -/
theorem opText_eq (i : Instr) (s : State) :
    opText i s = some (instrText i ++ " -> " ++ resultText i.row (block i.triple)) := by
  rw [opText, exec_eq]
  rfl

end Sys2Proof.Machine

namespace Sys2Proof.Proofs
open Sys2Proof.Machine

/-- Settles O39: by induction on the sequence of drives. -/
theorem outputsOfEverySequenceAreThoseOfEachTriple : Obligations.OutputsOfEverySequenceAreThoseOfEachTriple := by
  unfold Obligations.OutputsOfEverySequenceAreThoseOfEachTriple
  exact trace_eq

/-- Settles O40: both readings are the block's outputs for the triple. -/
theorem presentingATripleAgainGivesTheSameOutputs : Obligations.PresentingATripleAgainGivesTheSameOutputs := by
  unfold Obligations.PresentingATripleAgainGivesTheSameOutputs
  intro before between t s
  refine ⟨_, trace_map_triple _ s, ?_⟩
  have hlength : ((before ++ t :: between ++ [t]).map block).length = before.length + between.length + 2 := by
    simp only [List.length_map, List.length_append, List.length_cons, List.length_nil]
    omega
  have hfirst : ((before ++ t :: between ++ [t]).map block)[before.length]? = some (block t) := by
    simp
  have hlast : ((before ++ t :: between ++ [t]).map block).getLast? = some (block t) := by
    rw [List.map_append, List.map_singleton, List.getLast?_concat]
  exact ⟨hlength, hfirst.trans hlast.symm, hlast⟩

/-- Settles O41: each triple is paired with the block's outputs for it, wherever it stands in the sequence. -/
theorem orderOfTriplesDoesNotMatter : Obligations.OrderOfTriplesDoesNotMatter := by
  unfold Obligations.OrderOfTriplesDoesNotMatter
  intro ts us s s' hperm
  refine ⟨_, _, trace_map_triple ts s, trace_map_triple us s', ?_⟩
  rw [← List.map_prod_left_eq_zip, ← List.map_prod_left_eq_zip]
  exact hperm.map _

/-- Settles O43: the first drive fixes all three bytes, so the four triples do not depend on the state. -/
theorem mixedTriplesAreReportedAsTheyAre : Obligations.MixedTriplesAreReportedAsTheyAre := by
  unfold Obligations.MixedTriplesAreReportedAsTheyAre
  intro s
  rw [trace_eq]
  simp only [inputsAfter, Drive.apply]
  decide

/-- Settles O44: the block's outputs for each of the five triples. -/
theorem exchangingBytesChangesTheResult : Obligations.ExchangingBytesChangesTheResult := by
  unfold Obligations.ExchangingBytesChangesTheResult
  intro s
  rw [trace_eq]
  simp only [inputsAfter, Drive.apply]
  decide

/-- Settles O46: the text of the two examples. -/
theorem textOfTheScenarioTriple : Obligations.TextOfTheScenarioTriple := by
  unfold Obligations.TextOfTheScenarioTriple
  rw [opText_eq, opText_eq]
  decide

end Sys2Proof.Proofs
